-- ==== Sys2Proof/Word.lean ====
section
/-! DEFINITION. The word types: the 16-bit word of the codec, the bus and the device registers
(00_scope.md R7, R10), and the 32-bit command word of the port (30_encoding.md R101). -/

namespace Sys2Proof

/-- A 16-bit word, bit 15 the most significant (R7). -/
abbrev Word := BitVec 16

/-- A command word at the command port (R101). -/
abbrev CmdWord := BitVec 32

end Sys2Proof
end

