-- ==== Sys2Proof/Types.lean ====
section
/-! DEFINITION. The fixed sets of names the spec uses, and the records that pass between the block, its callers,
the bus transport and the device. Data only: what the names mean stands in Decode.lean and Machine/. -/

namespace Sys2Proof

/-- The nine fields of the ConfigWord, in the source's listing order (30_encoding.md R80, R81). -/
inductive Field where
  | os | mux | pga | mode | dr | cmode | cpol | clat | cque
deriving DecidableEq, Repr, Inhabited

/-- The width of each field in bits (R80, R81): these nine numbers are the source's own. -/
def Field.width : Field → Nat
  | .os => 1 | .mux => 3 | .pga => 3 | .mode => 1 | .dr => 3
  | .cmode => 1 | .cpol => 1 | .clat => 1 | .cque => 2

/-- The eleven operations of the command set (R100). -/
inductive Op where
  | encode | decode | getf | setf | wrcfg | rdcfg | rdconv | rdthr | rdss | reset | init
deriving DecidableEq, Repr, Inhabited

/-- A device's bus address, by what its address-select strap is tied to (20_memory.md R51). -/
inductive DevAddr where
  | ground | supply | dataLine | clockLine
deriving DecidableEq, Repr, Inhabited

/-- A GainSetting: one of the six fixed variants, named by full scale in millivolts (10_state.md R23, 30_encoding.md R87).
Its PGA code and its volts per bit are computed from the name (Machine/Operands.lean). -/
inductive Gain where
  | fs6144 | fs4096 | fs2048 | fs1024 | fs0512 | fs0256
deriving DecidableEq, Repr, Inhabited

/-- The four device registers, selected by index (10_state.md R30, 20_memory.md R50). -/
inductive RegIdx where
  | conversion | config | lowThreshold | highThreshold
deriving DecidableEq, Repr, Inhabited

/-- The direction of a bus transaction. -/
inductive Dir where
  | read | write
deriving DecidableEq, Repr, Inhabited

/-- The sequencer's position inside a command (10_state.md R27). -/
inductive Phase where
  | idle | wrCfg | settle | rdConv | rdCfg | rdLo | rdHi | closing
deriving DecidableEq, Repr, Inhabited

/-- The two software agents that can share one block instance (60_exceptions.md R226). -/
inductive Agent where
  | caller | background
deriving DecidableEq, Repr, Inhabited

/-- The register-access lock: free, or held, and by whom (10_state.md R28). -/
inductive Lock where
  | free
  | held (by_ : Agent)
deriving DecidableEq, Repr, Inhabited

/-- How much one holding of the lock covers: the open parameter LOCK_SCOPE (20_memory.md R60 item 3). -/
inductive LockScope where
  | perAccess | perCommand
deriving DecidableEq, Repr, Inhabited

/-- Why a transaction gave no result: the transport reported an error, or gave no answer within BUS_TIMEOUT
(20_memory.md R53, R54). Both are the one error kind BusError (60_exceptions.md R211). -/
inductive Failure where
  | busLevel | timeout
deriving DecidableEq, Repr, Inhabited

/-- What the environment decides about ONE bus transaction (20_memory.md R53, R54, R56, R65). -/
structure BusAnswer where
  /-- A conversion that was in progress ended since the transaction before (R65). -/
  convEnded : Bool
  /-- Where one ended: how many of those that the device record counts did, the running one of a device that free-runs apart
  (log 4). -/
  spent : Nat
  /-- The transaction failed, and how; `none`: it succeeded. -/
  failure : Option Failure
  /-- The word drawn for a register whose content is any value (10_state.md R33, R34, R36, R39). -/
  word : Word
  /-- A failed write reached the device all the same (R56). -/
  reached : Bool
  /-- The start trigger of a failed write took effect (R56), whether or not its word stayed in the device (60_exceptions.md
  R216, 93_implementation_defined.md I7). -/
  started : Bool
deriving DecidableEq, Repr, Inhabited

/-- What remains of a command after its first access (20_memory.md R60 item 3): RDSS is in its settle wait and its
conversion read remains (10_state.md R27 phase SETTLE); RDTHR has read the low threshold and its second read remains. -/
inductive Rest where
  | afterSettle
  | afterLow (lo : Word)
deriving DecidableEq, Repr, Inhabited

/-- A command of one agent that stands between its two accesses while the other agent's command moves (R60 item 3, R226:
each agent's command in progress is its own). -/
structure Suspended where
  agent : Agent
  rest : Rest
deriving DecidableEq, Repr, Inhabited

/-- Which operand a ConfigurationError is about (60_exceptions.md R210, R212; 30_encoding.md R107). -/
inductive Operand where
  /-- a must-be-zero bit of the command word is set -/
  | mustBeZero
  /-- `fsel` is 9 to 15 -/
  | fieldSelector
  /-- SETF's code does not fit the field -/
  | fieldCode
  /-- a gain code that is no GainSetting -/
  | gain
  /-- INIT's device address is none of the four -/
  | address
  /-- INIT's data-rate code is above 7 -/
  | dataRate
  /-- a channel index outside 0 to 3 (surrounding software) -/
  | channel
deriving DecidableEq, Repr, Inhabited

/-- The error kinds (60_exceptions.md R210). The block raises the first two, the surrounding software the others
(R213). -/
inductive ErrKind where
  | busError (idx : RegIdx) (dir : Dir)
  | configurationError (what : Operand)
  | modeConflict
  | rateExceeded
deriving DecidableEq, Repr, Inhabited

/-- The record of nine codes that DECODE gives, each of its field's width (00_scope.md R10, 40_codec.md R124). -/
structure Fields where
  os : BitVec 1
  mux : BitVec 3
  pga : BitVec 3
  mode : BitVec 1
  dr : BitVec 3
  cmode : BitVec 1
  cpol : BitVec 1
  clat : BitVec 1
  cque : BitVec 2
deriving DecidableEq, Repr, Inhabited

/-- The result a command delivers when it ends `ok` (30_encoding.md R100, R102). -/
inductive Payload where
  /-- no result: INIT, WRCFG, RESET -/
  | none
  /-- a word: ENCODE, SETF, RDCFG, RDCONV, RDSS -/
  | word (w : Word)
  /-- a field code, zero-extended: GETF -/
  | code (c : Word)
  /-- nine codes: DECODE -/
  | fields (f : Fields)
  /-- the low-threshold and the high-threshold word: RDTHR -/
  | pair (lo hi : Word)
deriving DecidableEq, Repr, Inhabited

/-- How a command ends: `Result(T)` of 00_scope.md R10, R13. -/
inductive Response where
  | ok (p : Payload)
  | err (k : ErrKind)
deriving DecidableEq, Repr, Inhabited

/-- A response and the agent it is delivered to (41_sequencer.md R140 item 8). -/
structure Delivery where
  dest : Agent
  resp : Response
deriving DecidableEq, Repr, Inhabited

/-- A command word as an agent puts it at the command port (92_eei_decisions.md D11). -/
structure Request where
  agent : Agent
  word : CmdWord
deriving DecidableEq, Repr, Inhabited

/-- A call of one of the transport's three primitives (20_memory.md R52). -/
inductive BusCall where
  | read (i : RegIdx)
  | write (i : RegIdx) (w : Word)
  | close
deriving DecidableEq, Repr, Inhabited

/-- What the block does towards the bus: a primitive called for an agent on the transport's target, or the settle wait
for a data rate (41_sequencer.md R152). -/
inductive BusEvent where
  | call (agent : Agent) (bus : Nat) (addr : DevAddr) (c : BusCall)
  | wait (agent : Agent) (rate : BitVec 3)
deriving DecidableEq, Repr, Inhabited

end Sys2Proof
end

