-- ==== Sys2Proof/Syntax.lean ====
section
/-! DEFINITION. The instructions: one constructor per row of spec/opcode_table.json (30_encoding.md R100). Operands are
the typed operands of the rules of 40_codec.md and 41_sequencer.md; where the spec names an operand value that is a
ConfigurationError (R107, R141), the operand's type can hold it, so that the meaning checks it. -/

namespace Sys2Proof

inductive Instr where
  /-- ENCODE (R123): the four overrides. -/
  | encode (mux pga : BitVec 3) (mode : BitVec 1) (dr : BitVec 3)
  /-- DECODE (R124): any word. -/
  | decode (w : Word)
  /-- GETF (R121): a field of a word. -/
  | getf (f : Field) (w : Word)
  /-- SETF (R122): a field of a word, and its new code. -/
  | setf (f : Field) (v : BitVec 3) (w : Word)
  /-- WRCFG (R142): any word. -/
  | wrcfg (w : Word)
  /-- RDCFG (R143). -/
  | rdcfg
  /-- RDCONV (R144). -/
  | rdconv
  /-- RDTHR (R145). -/
  | rdthr
  /-- RDSS (R146): a multiplexer code. -/
  | rdss (mux : BitVec 3)
  /-- RESET (R147). -/
  | reset
  /-- INIT (R141): bus index, gain code, device address, data-rate code. The bus handle is the port the block is wired
  to (R104). -/
  | init (busIdx : Nat) (gain : BitVec 3) (addr : BitVec 8) (rate : Nat)
deriving DecidableEq, Repr, Inhabited

/-- The operation an instruction is of. -/
def Instr.op : Instr → Op
  | .encode .. => .encode
  | .decode _ => .decode
  | .getf .. => .getf
  | .setf .. => .setf
  | .wrcfg _ => .wrcfg
  | .rdcfg => .rdcfg
  | .rdconv => .rdconv
  | .rdthr => .rdthr
  | .rdss _ => .rdss
  | .reset => .reset
  | .init .. => .init

end Sys2Proof
end

