-- ==== Sys2Proof/WellFormed.lean ====
section
/-! DEFINITION. Which instructions a command word can carry: the operand ranges of 30_encoding.md R104, R105, R107 and
41_sequencer.md R141. -/

namespace Sys2Proof

/-- A gain code is usable: it names one of the six GainSettings (30_encoding.md R87, R108). -/
def gainCodeUsable (g : BitVec 3) : Bool := g.toNat ≤ 5

/-- SETF's code fits the field (R105: `val` below `2^width(fsel)`). -/
def codeFits (f : Field) (v : BitVec 3) : Bool := v.toNat < 2 ^ f.width

/-- An address is one of 0x48, 0x49, 0x4A, 0x4B (20_memory.md R51). -/
def addrInMap (a : BitVec 8) : Bool := 0x48 ≤ a.toNat && a.toNat ≤ 0x4B

/-- A data-rate code is 0 to 7 (R141). -/
def rateCodeOk (r : Nat) : Bool := r ≤ 7

/-- A bus index fits the command word (R104: 0 to 255). The typed INIT takes any natural number (10_state.md R22). -/
def busIdxFits (b : Nat) : Bool := b < 256

/-- The instruction's operands are in range, so that a command word carries it. -/
def Instr.wellFormed : Instr → Bool
  | .encode _ pga _ _ => gainCodeUsable pga
  | .setf f v _ => codeFits f v
  | .init busIdx gain addr rate => busIdxFits busIdx && gainCodeUsable gain && addrInMap addr && rateCodeOk rate
  | .decode _ => true
  | .getf _ _ => true
  | .wrcfg _ => true
  | .rdcfg => true
  | .rdconv => true
  | .rdthr => true
  | .rdss _ => true
  | .reset => true

end Sys2Proof
end

