-- ==== Sys2Proof/Decode.lean ====
section
/-! DEFINITION. The command word's format C (30_encoding.md R101 to R108), the decoder, total on every 32-bit word and
rejecting by name, and after it the encoder. The field positions of the ConfigWord (LAYOUT, R82) stand here too, because
ENCODE's operands sit where the fields sit (R104). -/

namespace Sys2Proof

/-- `off(f)` of LAYOUT (R82): the spec's decided placement D1 (DESIGN CHOICE, log 11). -/
def Field.off : Field → Nat
  | .os => 15 | .mux => 12 | .pga => 9 | .mode => 8 | .dr => 5
  | .cmode => 4 | .cpol => 3 | .clat => 2 | .cque => 0

/-- The field selector `fsel` of a field (R105). -/
def Field.selector : Field → BitVec 4
  | .os => 0 | .mux => 1 | .pga => 2 | .mode => 3 | .dr => 4
  | .cmode => 5 | .cpol => 6 | .clat => 7 | .cque => 8

/-- The field a selector names; 9 to 15 are not fields (R105). -/
def fieldOfSelector (sel : BitVec 4) : Option Field :=
  match sel.toNat with
  | 0 => some .os | 1 => some .mux | 2 => some .pga | 3 => some .mode | 4 => some .dr
  | 5 => some .cmode | 6 => some .cpol | 7 => some .clat | 8 => some .cque
  | _ => none

/-- The opcode map (R103). -/
def Op.code : Op → BitVec 4
  | .encode => 0x0 | .decode => 0x1 | .getf => 0x2 | .setf => 0x3 | .wrcfg => 0x4 | .rdcfg => 0x5
  | .rdconv => 0x6 | .rdthr => 0x7 | .rdss => 0x8 | .reset => 0x9 | .init => 0xA

/-- The operation an `op` code selects; 0xB to 0xF are reserved (R103, R108). -/
def opOfCode (c : BitVec 4) : Option Op :=
  match c.toNat with
  | 0 => some .encode | 1 => some .decode | 2 => some .getf | 3 => some .setf | 4 => some .wrcfg
  | 5 => some .rdcfg | 6 => some .rdconv | 7 => some .rdthr | 8 => some .rdss | 9 => some .reset
  | 10 => some .init
  | _ => none

/-- The bits of the command word that must be zero for an operation (R101, R104), those of `op` apart. -/
def Op.mustBeZero : Op → CmdWord
  | .encode => 0x0FFF801F
  | .decode => 0x0FFF0000
  | .getf => 0x00FF0000
  | .setf => 0x00F80000
  | .wrcfg => 0x0FFF0000
  | .rdcfg => 0x0FFFFFFF
  | .rdconv => 0x0FFFFFFF
  | .rdthr => 0x0FFFFFFF
  | .rdss => 0x0FFFFFF8
  | .reset => 0x0FFFFFFF
  | .init => 0x0FFF0000

/-- The `op`, `fsel`, `val` and `arg` fields of a command word (R101). -/
def opField (w : CmdWord) : BitVec 4 := w.extractLsb' 28 4
@[inherit_doc opField] def fselField (w : CmdWord) : BitVec 4 := w.extractLsb' 24 4
@[inherit_doc opField] def valField (w : CmdWord) : BitVec 3 := w.extractLsb' 16 3
@[inherit_doc opField] def argField (w : CmdWord) : Word := w.extractLsb' 0 16

/-- Why a command word is no instruction. -/
inductive DecodeError where
  /-- `op` is 0xB to 0xF: the word is refused (R108, 60_exceptions.md R222). -/
  | reservedOpcode (op : BitVec 4)
  /-- `op` is defined and an operand is not: the command ends with ConfigurationError (R107). -/
  | illFormed (op : Op) (what : Operand)
deriving DecidableEq, Repr

/-- The answer of the decoder. -/
inductive Decoded where
  | instr (i : Instr)
  | error (e : DecodeError)
deriving DecidableEq, Repr

/-- The instruction of a decoded word, if there is one. -/
def Decoded.toOption : Decoded → Option Instr
  | .instr i => some i
  | .error _ => none

/-- The operands of an operation in a word whose must-be-zero bits are zero (R104, R105, R107). A word of a wrong selector has
no field for its code to fit, so its error names the selector (log 17). -/
def decodeOperands (op : Op) (w : CmdWord) : Decoded :=
  let arg := argField w
  match op with
  | .encode =>
    let pga := arg.extractLsb' (Field.off .pga) 3
    if gainCodeUsable pga then
      .instr (.encode (arg.extractLsb' (Field.off .mux) 3) pga (arg.extractLsb' (Field.off .mode) 1)
        (arg.extractLsb' (Field.off .dr) 3))
    else .error (.illFormed .encode .gain)
  | .decode => .instr (.decode arg)
  | .getf =>
    match fieldOfSelector (fselField w) with
    | some f => .instr (.getf f arg)
    | none => .error (.illFormed .getf .fieldSelector)
  | .setf =>
    match fieldOfSelector (fselField w) with
    | some f =>
      if codeFits f (valField w) then .instr (.setf f (valField w) arg)
      else .error (.illFormed .setf .fieldCode)
    | none => .error (.illFormed .setf .fieldSelector)
  | .wrcfg => .instr (.wrcfg arg)
  | .rdcfg => .instr .rdcfg
  | .rdconv => .instr .rdconv
  | .rdthr => .instr .rdthr
  | .rdss => .instr (.rdss (arg.extractLsb' 0 3))
  | .reset => .instr .reset
  | .init =>
    let gain := arg.extractLsb' 2 3
    if gainCodeUsable gain then
      .instr (.init (arg.extractLsb' 8 8).toNat gain (0x48 + (arg.extractLsb' 0 2).setWidth 8)
        (arg.extractLsb' 5 3).toNat)
    else .error (.illFormed .init .gain)

/-- The decoder: the row is chosen by `op` alone, then the must-be-zero bits, then the operands (R103, R107). DESIGN CHOICE
(log 17): of a word that breaks several constraints the error names a must-be-zero bit first; the spec gives no order
among them. -/
def decode (w : CmdWord) : Decoded :=
  match opOfCode (opField w) with
  | none => .error (.reservedOpcode (opField w))
  | some op =>
    if w &&& op.mustBeZero = 0 then decodeOperands op w
    else .error (.illFormed op .mustBeZero)

/-- The instruction the decoder reads from the command word whose bits are `w`, numbered as the table numbers them: the
port takes the 32-bit word whole (R101), so bit `i` of `w` is bit `i` of the word, and bits from `nbits` up are zero. -/
def decodeTableWord (nbits w : Nat) : Option Instr :=
  (decode (BitVec.ofNat 32 (w % 2 ^ nbits))).toOption

/-- `{op, fsel, 00000, val, arg}` (R101). -/
def packWord (op : Op) (fsel : BitVec 4) (val : BitVec 3) (arg : Word) : CmdWord :=
  (op.code.setWidth 32 <<< 28) ||| (fsel.setWidth 32 <<< 24) ||| (val.setWidth 32 <<< 16) ||| arg.setWidth 32

/-- The `arg` of ENCODE: the overrides in place (R104). -/
def encodeArg (mux pga : BitVec 3) (mode : BitVec 1) (dr : BitVec 3) : Word :=
  (mux.setWidth 16 <<< Field.off .mux) ||| (pga.setWidth 16 <<< Field.off .pga) |||
    (mode.setWidth 16 <<< Field.off .mode) ||| (dr.setWidth 16 <<< Field.off .dr)

/-- The `arg` of INIT: bus index 15:8, rate 7:5, gain 4:2, low address bits 1:0 (R104). -/
def initArg (busIdx : Nat) (gain : BitVec 3) (addr : BitVec 8) (rate : Nat) : Word :=
  ((BitVec.ofNat 8 busIdx).setWidth 16 <<< 8) ||| ((BitVec.ofNat 3 rate).setWidth 16 <<< 5) |||
    (gain.setWidth 16 <<< 2) ||| (addr.extractLsb' 0 2).setWidth 16

/-- The encoder: the command word of a well-formed instruction (R101 to R105). -/
def encode : Instr → CmdWord
  | .encode mux pga mode dr => packWord .encode 0 0 (encodeArg mux pga mode dr)
  | .decode w => packWord .decode 0 0 w
  | .getf f w => packWord .getf f.selector 0 w
  | .setf f v w => packWord .setf f.selector v w
  | .wrcfg w => packWord .wrcfg 0 0 w
  | .rdcfg => packWord .rdcfg 0 0 0
  | .rdconv => packWord .rdconv 0 0 0
  | .rdthr => packWord .rdthr 0 0 0
  | .rdss mux => packWord .rdss 0 0 (mux.setWidth 16)
  | .reset => packWord .reset 0 0 0
  | .init busIdx gain addr rate => packWord .init 0 0 (initArg busIdx gain addr rate)

end Sys2Proof
end

