-- ==== Sys2Proof/Config.lean ====
section
/-! DEFINITION. What the spec leaves open: the named parameters of 00_scope.md R6 and the free values. Every constant
here is opaque and has no body, so no proof can depend on what it is. LAYOUT and TEMPLATE take the spec's decided values
(92_eei_decisions.md D1, D10) and stand in Decode.lean and Machine/Operands.lean; CHAN_MUX takes its decided default and
stands in Machine/Clients.lean. -/

namespace Sys2Proof.Config

/-- LOCK_SCOPE (D17): OPEN. `State.scope` starts from it, and every statement is over both scopes. -/
opaque lockScope : LockScope

/-- CFG_ADDR (D21): OPEN, one of the four addresses. -/
opaque cfgAddr : DevAddr

/-- CFG_BUSIDX (D21): OPEN, a natural number. -/
opaque cfgBusIdx : Nat

/-- CFG_GAIN (D21): OPEN, one of the six GainSettings. -/
opaque cfgGain : Gain

/-- CFG_RATE (D21): OPEN, one of the eight data-rate codes. -/
opaque cfgRate : BitVec 3

/-- DEFAULT_ADDR (D21, "hardware defaults"): OPEN. -/
opaque defaultAddr : DevAddr

/-- DEFAULT_BUSIDX (D21): OPEN. -/
opaque defaultBusIdx : Nat

/-- DEFAULT_GAIN (D21): OPEN. -/
opaque defaultGain : Gain

/-- DEFAULT_RATE (D21): OPEN. -/
opaque defaultRate : BitVec 3

/-- SETTLE_DELAY (D15), in seconds for a data-rate code: OPEN. The model keeps only that the wait stands between the
write and the read (00_scope.md R14), so no step depends on it. -/
opaque settleDelay : BitVec 3 → Rat

/-- BUS_TIMEOUT (D16), in seconds: OPEN. No step depends on it: a timeout is one of the environment's answers. -/
opaque busTimeout : Rat

/-- FREE VALUE: what the environment answers to the next transaction when State holds no answer for it (`draw`,
00_scope.md R9). -/
opaque freeAnswer : Nat → BusAnswer

/-- FREE VALUE: how many moves the other agent makes in a gap when State holds no number for it (20_memory.md R60
item 3). -/
opaque freeGap : Nat → Nat

/-- FREE VALUE: what the 32 response lines carry where the payload is unspecified (30_encoding.md R102). -/
opaque freeLines : Nat → BitVec 32

end Sys2Proof.Config
end

