-- ==== Sys2Proof/Machine/State.lean ====
section
/-! DEFINITION. The state of the machine: the block (10_state.md R20 to R28), the ADC device (R30 to R36), the command
port and the bus port, and the model's own fields that hold the environment's choices; the reasons a step can stop; the
state at reset. -/

namespace Sys2Proof.Machine

/-- The ADC device as the block can know it, at level 1 of 20_memory.md R66. A register whose flag is false holds any
value: the next read draws it. -/
structure Device where
  /-- `DevReg[0x00]` (10_state.md R33). -/
  conversion : Word
  /-- `DevReg[0x01]` (R31, R32): the mode, multiplexer, gain and rate in force are its fields (R35 (a), (c)). -/
  config : Word
  /-- `DevReg[0x02]` (R34). -/
  lowThr : Word
  /-- `DevReg[0x03]` (R34). -/
  highThr : Word
  /-- How many conversions that began under an earlier word, or were triggered by the one in force, can still end (R35 (b));
  a device that free-runs has its own running conversion beside them. More than one only where a config word arrived during
  a conversion, of which the spec does not say what becomes of it (91_not_in_source.md N8, log 4). -/
  convPending : Nat
  /-- The model's own: no conversion can have replaced `conversion` since it was last read. -/
  convKnown : Bool
  /-- The model's own: a config write has reached the device since construction (R66). -/
  cfgKnown : Bool
  /-- The model's own: `lowThr` has been read since construction. -/
  lowKnown : Bool
  /-- The model's own: `highThr` has been read since construction. -/
  highKnown : Bool
  /-- The model's own: the agent whose config word reached the device last since construction, or whose failed write
  triggered a conversion since. -/
  writer : Option Agent
deriving DecidableEq, Repr, Inhabited

/-- The whole machine. -/
structure State where
  /-- The instance exists: INIT has succeeded (41_sequencer.md R140 item 1). -/
  made : Bool
  /-- `S.addr` (10_state.md R21). -/
  addr : DevAddr
  /-- `S.busIdx` (R22). -/
  busIdx : Nat
  /-- `S.gain` (R23). -/
  gain : Gain
  /-- `S.rate`, a data-rate code (R24). -/
  rate : BitVec 3
  /-- `S.lastCfg` (R25). -/
  lastCfg : Option Word
  /-- `S.open` (R26). -/
  isOpen : Bool
  /-- `S.phase` (R27): the phase of the command that moves; a suspended command's phase is in its `Rest`. -/
  phase : Phase
  /-- The register-access lock (R28). -/
  lock : Lock
  /-- The ADC device (R30 to R36). -/
  device : Device
  /-- LOCK_SCOPE (20_memory.md R60 item 3): a parameter of the machine that no instruction changes. -/
  scope : LockScope
  /-- The command port: what callers have issued and the block has not taken, the next first. -/
  port : List Request
  /-- The agent whose command is in progress. -/
  who : Agent
  /-- The command of the other agent that stands between its two accesses, if there is one (R60 item 3, R226). -/
  suspended : Option Suspended
  /-- The response port: the responses delivered so far and the agents they went to, newest first (R102, R140 item 8). No
  command reads it: the block stores no status (R37). -/
  delivered : List Delivery
  /-- The model's own: what the block has done at the bus port, newest first. No command reads it. -/
  busLog : List BusEvent
  /-- The model's own: the environment's answers to the next transactions (`draw`, 00_scope.md R9). -/
  answers : List BusAnswer
  /-- The model's own: how many moves the other agent makes in each of the next gaps (R60 item 3). -/
  gaps : List Nat
  /-- The model's own: how many free values have been used. -/
  draws : Nat
deriving DecidableEq, Repr, Inhabited

/-- Why the machine stops with a fault. The block has no machine fault: its errors are responses (60_exceptions.md R210,
R216). -/
inductive Fault where
  /-- A sequencer command meets `S.phase` other than IDLE, where it is not accepted (41_sequencer.md R140 item 1) and no
  rule says what moves next. Raised by every sequencer command but INIT, and by an ill-formed word of one. Safe: stuck
  where the hardware would wait, and no run from reset reaches such a state. -/
  | notIdle (phase : Phase)
deriving DecidableEq, Repr

/-- Why the machine gives a request no step (60_exceptions.md R222). -/
inductive Refusal where
  /-- An instruction with no meaning yet. Raised by `exec`'s arms only. Safe. -/
  | notModelled (mnemonic : String)
  /-- A command to an instance that was never constructed (R222). Raised by every command but INIT, and by an ill-formed word
  of one. Safe: the spec gives it no step. -/
  | noInstance
  /-- A command other than RESET to an instance whose handle was released (R222). Raised by every command but RESET and
  INIT, and by an ill-formed word of one. Safe: the spec gives it no step. -/
  | handleReleased
  /-- INIT to an existing instance (R222). Raised by INIT, and by an ill-formed word of it. Safe: the spec gives it no step. -/
  | instanceExists
  /-- A command word whose `op` is 0xB to 0xF (30_encoding.md R108, R222). Raised by the port. Safe: the spec gives it no
  step. -/
  | reservedOpcode (op : BitVec 4)
deriving DecidableEq, Repr

/-- The device before the block has written or read it: nothing is known (10_state.md R39, R41). The four words are
DESIGN CHOICE 0x0000 (log 5): no read returns them. -/
def Device.reset : Device where
  conversion := 0x0000
  config := 0x0000
  lowThr := 0x0000
  highThr := 0x0000
  convPending := 0
  convKnown := false
  cfgKnown := false
  lowKnown := false
  highKnown := false
  writer := none

/-- The machine before the first command: no instance exists, and the block's fields stand at the values 10_state.md R38
and R41 give, with the open parameters of 00_scope.md R6 for the construction arguments (DESIGN CHOICE, log 1). The
block's only reset is INIT (70_reset_and_hazards.md R240), which is the first command of a program. -/
def State.reset : State where
  made := false
  addr := Config.cfgAddr
  busIdx := Config.cfgBusIdx
  gain := Config.cfgGain
  rate := Config.cfgRate
  lastCfg := none
  isOpen := true
  phase := .idle
  lock := .free
  device := Device.reset
  scope := Config.lockScope
  port := []
  who := .caller
  suspended := none
  delivered := []
  busLog := []
  answers := []
  gaps := []
  draws := 0

end Sys2Proof.Machine
end

