-- ==== Sys2Proof/Machine/Operands.lean ====
section
/-! DEFINITION. The ConfigWord and its operand forms (30_encoding.md R82 to R98): masks, insert, extract, the template,
the codes of gain and data rate, the device addresses and register indices, and the signed reading of a word. -/

namespace Sys2Proof.Machine

/-- `mask(f)`: ones on exactly the field's bit span (00_scope.md R8, 30_encoding.md R83). -/
def fieldMask (f : Field) : Word := BitVec.ofNat 16 (2 ^ f.width - 1) <<< f.off

/-- `clr(f)`: zeros on exactly the field's span (R8, R83). -/
def fieldClear (f : Field) : Word := ~~~ fieldMask f

/-- A code right-aligned in a word, shifted to the field's place: `zext_16(v) << off(f)` (R95). -/
def placeCode (f : Field) (v : Word) : Word := v <<< f.off

/-- `extract(w, f)` (R96). -/
def extractField (w : Word) (f : Field) : Word := (w &&& fieldMask f) >>> f.off

/-- `insert(w, f, v)`: clear the field's span, then OR the code in (R95). -/
def insertField (w : Word) (f : Field) (v : Word) : Word := (w &&& fieldClear f) ||| placeCode f v

/-- TEMPLATE (R94): the decided value D10: OS 1, CQUE 3, all else 0 (DESIGN CHOICE, log 11). -/
def template : Word := 0x8003

/-- The word ENCODE builds from the four overrides (40_codec.md R123). -/
def encodeWord (mux pga : BitVec 3) (mode : BitVec 1) (dr : BitVec 3) : Word :=
  template ||| placeCode .mux (mux.setWidth 16) ||| placeCode .pga (pga.setWidth 16) |||
    placeCode .mode (mode.setWidth 16) ||| placeCode .dr (dr.setWidth 16)

/-- The nine codes of a word (R124). -/
def decodeFields (w : Word) : Fields where
  os := (extractField w .os).setWidth 1
  mux := (extractField w .mux).setWidth 3
  pga := (extractField w .pga).setWidth 3
  mode := (extractField w .mode).setWidth 1
  dr := (extractField w .dr).setWidth 3
  cmode := (extractField w .cmode).setWidth 1
  cpol := (extractField w .cpol).setWidth 1
  clat := (extractField w .clat).setWidth 1
  cque := (extractField w .cque).setWidth 2

/-- `sint16(w)`: the raw code (30_encoding.md R97, 40_codec.md R129). -/
def sint16 (w : Word) : Int := if w.toNat < 0x8000 then w.toNat else (w.toNat : Int) - 65536

/-- The PGA code of a GainSetting (R87). -/
def gainCode : Gain → BitVec 3
  | .fs6144 => 0 | .fs4096 => 1 | .fs2048 => 2 | .fs1024 => 3 | .fs0512 => 4 | .fs0256 => 5

/-- The GainSetting of a PGA code; 6 and 7 name none (R87, R108). -/
def gainOfCode (c : BitVec 3) : Option Gain :=
  match c.toNat with
  | 0 => some .fs6144 | 1 => some .fs4096 | 2 => some .fs2048
  | 3 => some .fs1024 | 4 => some .fs0512 | 5 => some .fs0256
  | _ => none

/-- A GainSetting's full scale in volts (R87). -/
def fullScale : Gain → Rat
  | .fs6144 => 6144 / 1000 | .fs4096 => 4096 / 1000 | .fs2048 => 2048 / 1000
  | .fs1024 => 1024 / 1000 | .fs0512 => 512 / 1000 | .fs0256 => 256 / 1000

/-- A GainSetting's volts per bit: `fullScale / 32768` (R87). The block never uses it (10_state.md R23). -/
def voltsPerBit (g : Gain) : Rat := fullScale g / 32768

/-- `rateOf(code)` in samples per second (R89). -/
def rateOf (code : BitVec 3) : Nat :=
  match code.toNat with
  | 0 => 8 | 1 => 16 | 2 => 32 | 3 => 64 | 4 => 128 | 5 => 250 | 6 => 475 | _ => 860

/-- The constraint on SETTLE_DELAY: it exceeds one conversion at the configured data rate (00_scope.md R6, D15). -/
def settleDelayOk : Prop := ∀ r : BitVec 3, 1 / (rateOf r : Rat) < Config.settleDelay r

/-- The 8-bit bus address (20_memory.md R51). -/
def addrBits : DevAddr → BitVec 8
  | .ground => 0x48 | .supply => 0x49 | .dataLine => 0x4A | .clockLine => 0x4B

/-- The device an 8-bit address names, if it is one of the four (R51, 10_state.md R21). -/
def addrOfBits (a : BitVec 8) : Option DevAddr :=
  match a.toNat with
  | 0x48 => some .ground | 0x49 => some .supply | 0x4A => some .dataLine | 0x4B => some .clockLine
  | _ => none

/-- The register index as the transport's primitives carry it (20_memory.md R50, D20). -/
def regIndex : RegIdx → BitVec 8
  | .conversion => 0x00 | .config => 0x01 | .lowThreshold => 0x02 | .highThreshold => 0x03

/-- MODE of a config word is continuous (30_encoding.md R88). -/
def isContinuous (w : Word) : Bool := extractField w .mode == 0

/-- OS of a config word is 1: written, it starts a conversion (R85). -/
def startBit (w : Word) : Bool := extractField w .os == 1

end Sys2Proof.Machine
end

