-- ==== Sys2Proof/Machine/Flags.lean ====
section
/-! DEFINITION. Status. The block has no arithmetic flags and no condition codes (10_state.md R36); what it has is the
status of each response (R37, 30_encoding.md R102) and, in the device, the status bit OS of a config read (R36). -/

namespace Sys2Proof.Machine

/-- The number of an error kind (R102, 60_exceptions.md R210). -/
def errCode : ErrKind → BitVec 4
  | .busError _ _ => 1
  | .configurationError _ => 2
  | .modeConflict => 3
  | .rateExceeded => 4

/-- The 4-bit status of a response: 0 is `ok`; 5 to 15 are never produced (R102, R108). -/
def statusCode : Response → BitVec 4
  | .ok _ => 0
  | .err k => errCode k

/-- The response lines `res[31:0]` (R102). Lines whose value the spec leaves unspecified carry the lines of the free value
`free`: all of them for a command with no result, for DECODE (which has nine outputs of its own) and for every error; the
upper half where the result is one word (log 12). -/
def responseLines (free : BitVec 32) : Response → BitVec 32
  | .ok (.word w) => free.extractLsb' 16 16 ++ w
  | .ok (.code c) => free.extractLsb' 16 16 ++ c
  | .ok (.pair lo hi) => hi ++ lo
  | .ok .none => free
  | .ok (.fields _) => free
  | .err _ => free

/-- What a read of the config register returns when the block knows its content: bit 15 is the status, which is a draw;
bits 14 to 0 are the stored word (10_state.md R32, R36, 20_memory.md R66). -/
def withStatusBit (stored draw : Word) : Word := draw.extractLsb' 15 1 ++ stored.extractLsb' 0 15

end Sys2Proof.Machine
end

