-- ==== Sys2Proof/Machine/Ops.lean ====
section
/-! DEFINITION. The named operations over the state: its fields, the draws, the device, the lock, the bus transactions,
the end of a command, and taking an error (60_exceptions.md R216). -/

namespace Sys2Proof.Machine

/-! ### Single fields -/

/-- `S.phase <- p`. -/
def State.setPhase (s : State) (p : Phase) : State := { s with phase := p }

/-- The lock changes hands. -/
def State.setLock (s : State) (l : Lock) : State := { s with lock := l }

/-- `S.lastCfg <- w`. -/
def State.setLastCfg (s : State) (w : Word) : State := { s with lastCfg := some w }

/-- The device changes. -/
def State.setDevice (s : State) (d : Device) : State := { s with device := d }

/-- Something happens at the bus port. -/
def State.logEvent (s : State) (e : BusEvent) : State := { s with busLog := e :: s.busLog }

/-- A response is delivered to the agent whose command is in progress (R140 item 8). -/
def State.respond (s : State) (r : Response) : State := { s with delivered := ⟨s.who, r⟩ :: s.delivered }

/-! ### Draws -/

/-- The environment's answer to the next transaction: the next one State holds, else a free value. -/
def nextAnswer (s : State) : BusAnswer :=
  match s.answers with
  | a :: _ => a
  | [] => Config.freeAnswer s.draws

/-- The state after that answer was used. -/
def dropAnswer (s : State) : State :=
  { s with answers := s.answers.tail, draws := if s.answers.isEmpty then s.draws + 1 else s.draws }

/-- How many moves the other agent makes in the next gap: the next number State holds, else a free value. -/
def nextGap (s : State) : Nat :=
  match s.gaps with
  | g :: _ => g
  | [] => Config.freeGap s.draws

/-- The state after that gap was used. -/
def dropGap (s : State) : State :=
  { s with gaps := s.gaps.tail, draws := if s.gaps.isEmpty then s.draws + 1 else s.draws }

/-! ### The device (20_memory.md R65, R66) -/

/-- The device free-runs, or nothing is known of its mode (10_state.md R35 (a), R41). -/
def Device.freeRuns (d : Device) : Bool := !d.cfgKnown || isContinuous d.config

/-- A conversion may be in progress: the device free-runs, or one that began has not ended (R35). -/
def Device.converting (d : Device) : Bool := d.freeRuns || d.convPending != 0

/-- How many of the counted conversions ended, where one did: what the environment says, and at least one where the device
does not free-run. -/
def Device.spentOf (d : Device) (ans : BusAnswer) : Nat := if d.freeRuns then ans.spent else max 1 ans.spent

/-- The device agent's step before a transaction: if a conversion ended, the conversion register holds a new result, any
value (R33, R65), and those that ended can end no more. On a device that free-runs the one that ended may be its running
one, a counted one, or both: the environment says (log 4). -/
def Device.acts (d : Device) (ans : BusAnswer) : Device :=
  if ans.convEnded && d.converting then
    { d with convPending := d.convPending - d.spentOf ans, convKnown := false }
  else d

/-- The end of an agent's settle wait: the conversion its word triggered has ended by now (R250, R152), so where one could
still end, `DevReg[0x00]` holds a new result, and the device is powered down (R65 (a), R146): no conversion is left, one
that began under an earlier word neither, as later reads return the single-shot result "again and again" (R251). Where
every conversion had ended before, in the gap, the wait ends none: one trigger is one result (R65 (a)), and a word that the
other agent read since is what this agent reads too (I1; log 4). If the other agent's word reached the device meanwhile,
or triggered a conversion (log 21), the wait says nothing of the conversion that word started (R252). -/
def Device.settled (d : Device) (a : Agent) : Device :=
  if d.writer = some a ∧ d.convPending ≠ 0 then { d with convPending := 0, convKnown := false } else d

/-- How many conversions can still end under a new word: those that could before it, and the running one of a device that
free-ran. -/
def Device.unended (d : Device) : Nat := d.convPending + (if d.freeRuns then 1 else 0)

/-- An agent's config word reaches the device (R54, R59, R65). `starts` says whether it starts a conversion, where its MODE
is single-shot. DESIGN CHOICE (log 4): the spec does not say what becomes of a conversion already in progress
(91_not_in_source.md N8, 93_implementation_defined.md I9), so each of those and the new one may end later or never; the
environment decides at each transaction whether one did. -/
def Device.accept (d : Device) (a : Agent) (w : Word) (starts : Bool) : Device :=
  { d with
    config := w, cfgKnown := true, writer := some a,
    convPending := d.unended + (if !isContinuous w && starts then 1 else 0) }

/-- An agent's config word left the old one in place, and its trigger may have started a conversion all the same (R56,
60_exceptions.md R216, I7); only a single-shot word has one (R65 (a)). The conversion counts as any other, and as the
agent's own, as that of a word that reached the device does (log 21). -/
def Device.triggered (d : Device) (a : Agent) (w : Word) (starts : Bool) : Device :=
  if !isContinuous w && starts then { d with convPending := d.convPending + 1, writer := some a } else d

/-- The word a successful read of a register returns, given the environment's draw (R33, R34, R66). -/
def Device.value (d : Device) (i : RegIdx) (draw : Word) : Word :=
  match i with
  | .conversion => if d.convKnown then d.conversion else draw
  | .config => if d.cfgKnown then withStatusBit d.config draw else draw
  | .lowThreshold => if d.lowKnown then d.lowThr else draw
  | .highThreshold => if d.highKnown then d.highThr else draw

/-- The device after a successful read: it has not changed, and what was drawn is now known to be its content, so that a
second read with no conversion between returns the same word (R61, R144, I1, I2). DESIGN CHOICE (log 4): R33, R66 and D24
call every read of these registers a draw; I1 and I2 make such reads equal at level 1. Before the first config write has
reached the device, a config read makes nothing known (R66). -/
def Device.seen (d : Device) (i : RegIdx) (draw : Word) : Device :=
  match i with
  | .conversion => { d with conversion := d.value .conversion draw, convKnown := true }
  | .config => d
  | .lowThreshold => { d with lowThr := d.value .lowThreshold draw, lowKnown := true }
  | .highThreshold => { d with highThr := d.value .highThreshold draw, highKnown := true }

/-- A new instance knows nothing of the device: its registers "are whatever they were" (R39, 41_sequencer.md R141). -/
def Device.forget (d : Device) : Device :=
  { d with
    convPending := 0, convKnown := false, cfgKnown := false, lowKnown := false, highKnown := false,
    writer := none }

/-! ### Transactions -/

/-- A primitive called for an agent, on the transport's target (20_memory.md R51, R52). -/
def busEvent (s : State) (a : Agent) (c : BusCall) : BusEvent := .call a s.busIdx s.addr c

/-- Whether a single-shot word written to the device starts a conversion: with OS at 1 it does, if the write succeeded
(30_encoding.md R85, 20_memory.md R65 (a)); for a failed write (R56), and for OS at 0, whose effect is not in the source
(D7), the environment decides. -/
def starts (w : Word) (ans : BusAnswer) : Bool := (ans.failure.isNone && startBit w) || ans.started

/-- What a failed write leaves (R56, I7): the new word or the old one, and a triggered conversion or none, each as the
environment decided. -/
def Device.afterFailedWrite (d : Device) (a : Agent) (w : Word) (ans : BusAnswer) : Device :=
  if ans.reached then d.accept a w (starts w ans) else d.triggered a w (starts w ans)

/-- One write of index 0x01 for an agent, with the environment's answer (R54, R56). `S.lastCfg` changes only when it
succeeds (10_state.md R25). -/
def busWrite (a : Agent) (w : Word) (ans : BusAnswer) (s : State) : State :=
  let d := s.device.acts ans
  let s := s.logEvent (busEvent s a (.write .config w))
  match ans.failure with
  | none => (s.setDevice (d.accept a w (starts w ans))).setLastCfg w
  | some _ => s.setDevice (d.afterFailedWrite a w ans)

/-- One read of a register for an agent, with the environment's answer (R53). A failed read leaves the device as it was
(R56). -/
def busRead (a : Agent) (i : RegIdx) (ans : BusAnswer) (s : State) : State :=
  let d := s.device.acts ans
  let s := s.logEvent (busEvent s a (.read i))
  match ans.failure with
  | none => s.setDevice (d.seen i ans.word)
  | some _ => s.setDevice d

/-- The word that read returns when it succeeds. -/
def busReadValue (i : RegIdx) (ans : BusAnswer) (s : State) : Word :=
  (s.device.acts ans).value i ans.word

/-- `close()` for an agent: the handle is released (R55, 41_sequencer.md R147). -/
def busClose (a : Agent) (s : State) : State :=
  { s.logEvent (busEvent s a .close) with isOpen := false }

/-! ### The lock (20_memory.md R60) -/

/-- The other agent of an agent (R226). -/
def otherOf : Agent → Agent
  | .caller => .background
  | .background => .caller

/-- `Lock()`: an agent that finds the lock held by the other waits, and goes on when it is free (R60 item 2). Each step
of the model ends with the lock free (Safety.lean), so no agent meets it held. -/
def acquire (s : State) : State := s.setLock (.held s.who)

/-- `Unlock()` of a command's own holding. -/
def release (s : State) : State := if s.lock = .held s.who then s.setLock .free else s

/-- The end of one access: under `perAccess` the lock is released, under `perCommand` it is kept (R60 item 3, R140
item 3). -/
def releaseAccess (s : State) : State :=
  match s.scope with
  | .perAccess => release s
  | .perCommand => s

/-- `MemWrite(0x01, 2, w)`, and `S.lastCfg <- w` if it succeeds: the only register the block ever writes (R54, R64). -/
def memWrite (w : Word) (s : State) : State :=
  let s := acquire s
  releaseAccess (busWrite s.who w (nextAnswer s) (dropAnswer s))

/-- The error of that write, if it fails: `BusError(0x01, write)` (R54). -/
def memWriteError (s : State) : Option ErrKind :=
  match (nextAnswer (acquire s)).failure with
  | none => none
  | some _ => some (.busError .config .write)

/-- `MemRead(i, 2)` (R53). -/
def memRead (i : RegIdx) (s : State) : State :=
  let s := acquire s
  releaseAccess (busRead s.who i (nextAnswer s) (dropAnswer s))

/-- The result of that read: the word, or `BusError(i, read)` (R53). -/
def memReadResult (i : RegIdx) (s : State) : Except ErrKind Word :=
  let s := acquire s
  match (nextAnswer s).failure with
  | none => .ok (busReadValue i (nextAnswer s) s)
  | some _ => .error (.busError i .read)

/-- `Wait(SETTLE_DELAY(S.rate))` begins (R146, R152): phase SETTLE. -/
def beginWait (s : State) : State := (s.setPhase .settle).logEvent (.wait s.who s.rate)

/-- That wait ends. -/
def endWait (s : State) : State := s.setDevice (s.device.settled s.who)

/-! ### The end of a command -/

/-- A command ends: `S.phase <- IDLE`, and its holding of the lock is released (R140 items 3 and 5). -/
def endCommand (s : State) : State := release (s.setPhase .idle)

/-- A command ends `ok` with its result. -/
def complete (p : Payload) (s : State) : State := (endCommand s).respond (.ok p)

/-- TAKING AN ERROR, the one shared operation (60_exceptions.md R216): the command ends at once, what it wrote before
stays written, nothing is saved, and the kind goes to the caller that issued the command. There is no return from it
(R218): a retry is the command issued again. -/
def raiseError (k : ErrKind) (s : State) : State := (endCommand s).respond (.err k)

/-- A ConfigurationError, found before anything of the command has begun: nothing changes but the response (R107, R140
item 2). -/
def raiseConfiguration (what : Operand) (s : State) : State := s.respond (.err (.configurationError what))

/-! ### Acceptance (41_sequencer.md R140 item 1, 60_exceptions.md R215 item 1, R222) -/

/-- A command other than RESET and INIT is given to an instance that exists and whose handle is open, else it is refused
(R222, 93_implementation_defined.md I11). -/
def needLive (s : State) (go : Host.Outcome State Fault Refusal) : Host.Outcome State Fault Refusal :=
  if s.made then
    if s.isOpen then go else .refused .handleReleased
  else .refused .noInstance

/-- A sequencer command is accepted at IDLE only (R140 item 1). -/
def needIdle (s : State) (body : State → State) : Host.Outcome State Fault Refusal :=
  if s.phase = .idle then .next (body s) else .fault (.notIdle s.phase)

/-- A codec command needs a live instance and no more: it touches neither the sequencer nor the lock (40_codec.md R120,
20_memory.md R60 item 4; log 14). -/
def needCodec (s : State) (body : State → State) : Host.Outcome State Fault Refusal := needLive s (.next (body s))

/-- A sequencer command that needs the bus: a live instance, and IDLE. -/
def needOpen (s : State) (body : State → State) : Host.Outcome State Fault Refusal := needLive s (needIdle s body)

/-- RESET is accepted whether or not the handle was released. -/
def needMade (s : State) (body : State → State) : Host.Outcome State Fault Refusal :=
  if s.made then needIdle s body else .refused .noInstance

/-- INIT is accepted when no live instance exists: before the first construction, or when the last instance was released
(R147: "a new INIT makes a new instance"; log 13). -/
def needNoInstance (s : State) (body : State → State) : Host.Outcome State Fault Refusal :=
  if s.made && s.isOpen then .refused .instanceExists else .next (body s)

end Sys2Proof.Machine
end

