-- ==== Sys2Proof/Machine/Codec.lean ====
section
/-! DEFINITION. The codec family: GETF, SETF, ENCODE, DECODE (40_codec.md). Each result is a total function of its operands:
it comes from no state, takes no lock and makes no transaction (R120, R127). What a command changes is the response it
delivers. As a command it is refused where no live instance exists, like any other (60_exceptions.md R222, log 14). -/

namespace Sys2Proof.Machine

/-- What ENCODE delivers (R123). A gain code that names no GainSetting is a ConfigurationError (R107). -/
def encodeSteps (mux pga : BitVec 3) (mode : BitVec 1) (dr : BitVec 3) (s : State) : State :=
  if gainCodeUsable pga then s.respond (.ok (.word (encodeWord mux pga mode dr)))
  else raiseConfiguration .gain s

/-- What DECODE delivers (R124): nine codes of any word. -/
def decodeSteps (w : Word) (s : State) : State := s.respond (.ok (.fields (decodeFields w)))

/-- What GETF delivers (R121): one code of any word, zero-extended. -/
def getfSteps (f : Field) (w : Word) (s : State) : State := s.respond (.ok (.code (extractField w f)))

/-- What SETF delivers (R122): clear, then set. A code that does not fit the field is a ConfigurationError, "never
truncated silently". -/
def setfSteps (f : Field) (v : BitVec 3) (w : Word) (s : State) : State :=
  if codeFits f v then s.respond (.ok (.word (insertField w f (v.setWidth 16))))
  else raiseConfiguration .fieldCode s

/-- ENCODE (R123). -/
def execEncode (mux pga : BitVec 3) (mode : BitVec 1) (dr : BitVec 3) (s : State) :
    Host.Outcome State Fault Refusal :=
  needCodec s (encodeSteps mux pga mode dr)

/-- DECODE (R124). -/
def execDecode (w : Word) (s : State) : Host.Outcome State Fault Refusal := needCodec s (decodeSteps w)

/-- GETF (R121). -/
def execGetf (f : Field) (w : Word) (s : State) : Host.Outcome State Fault Refusal := needCodec s (getfSteps f w)

/-- SETF (R122). -/
def execSetf (f : Field) (v : BitVec 3) (w : Word) (s : State) : Host.Outcome State Fault Refusal :=
  needCodec s (setfSteps f v w)

end Sys2Proof.Machine
end

