-- ==== Sys2Proof/Machine/Accesses.lean ====
section
/-! DEFINITION. The steps of the sequencer's commands up to the point where the other agent's transactions can fall
between two accesses (41_sequencer.md R142 to R147; 20_memory.md R60 item 3), and what remains after that point. -/

namespace Sys2Proof.Machine

/-- The last read of a command: phase, `MemRead`, and the result made of the word. -/
def finishRead (p : Phase) (i : RegIdx) (result : Word → Payload) (s : State) : State :=
  let s := s.setPhase p
  match memReadResult i s with
  | .ok r => complete (result r) (memRead i s)
  | .error e => raiseError e (memRead i s)

/-- The steps of WRCFG (R142). -/
def wrcfgSteps (w : Word) (s : State) : State :=
  let s := s.setPhase .wrCfg
  match memWriteError s with
  | none => complete .none (memWrite w s)
  | some e => raiseError e (memWrite w s)

/-- The steps of RDCFG (R143). -/
def rdcfgSteps (s : State) : State := finishRead .rdCfg .config .word s

/-- The steps of RDCONV (R144). -/
def rdconvSteps (s : State) : State := finishRead .rdConv .conversion .word s

/-- The first access of RDTHR (R145): the low threshold. -/
def rdthrFirst (s : State) : State :=
  let s := s.setPhase .rdLo
  match memReadResult .lowThreshold s with
  | .ok _ => memRead .lowThreshold s
  | .error e => raiseError e (memRead .lowThreshold s)

/-- What remains of RDTHR after it: nothing, if it failed. -/
def rdthrRest (s : State) : Option Rest :=
  match memReadResult .lowThreshold (s.setPhase .rdLo) with
  | .ok lo => some (.afterLow lo)
  | .error _ => none

/-- The word RDSS writes: multiplexer `m`, the instance's gain and data rate, MODE single-shot (R146). -/
def singleShotWord (m : BitVec 3) (s : State) : Word := encodeWord m (gainCode s.gain) 1 s.rate

/-- The first access of RDSS (R146): the write, after which the settle wait begins. -/
def rdssFirst (m : BitVec 3) (s : State) : State :=
  let w := singleShotWord m s
  let s := s.setPhase .wrCfg
  match memWriteError s with
  | none => beginWait (memWrite w s)
  | some e => raiseError e (memWrite w s)

/-- What remains of RDSS after it: nothing, if the write failed. -/
def rdssRest (s : State) : Option Rest :=
  match memWriteError (s.setPhase .wrCfg) with
  | none => some .afterSettle
  | some _ => none

/-- The rest of a command: RDSS's wait ends and it reads the conversion (R146); RDTHR reads the high threshold, and if
that fails the first word is discarded (R145). -/
def finishRest (r : Rest) (s : State) : State :=
  match r with
  | .afterSettle => finishRead .rdConv .conversion .word (endWait s)
  | .afterLow lo => finishRead .rdHi .highThreshold (.pair lo) s

/-- The steps of RESET (R147): it waits for the lock like any command; the first RESET closes the handle, every later one
does nothing. -/
def resetSteps (s : State) : State :=
  let s := acquire s
  complete .none (if s.isOpen then busClose s.who (s.setPhase .closing) else s)

end Sys2Proof.Machine
end

