-- ==== Sys2Proof/Machine/Agents.lean ====
section
/-! DEFINITION. The two agents (60_exceptions.md R226) and how the other agent's commands fall between the accesses of a
command in progress (20_memory.md R60 item 3, R61, 70_reset_and_hazards.md R252). -/

namespace Sys2Proof.Machine

/-- The first request of an agent at the port, and the port without it: one agent's commands keep their order (R61). -/
def takeFirst (a : Agent) : List Request → Option (CmdWord × List Request)
  | [] => none
  | r :: rest =>
    if r.agent = a then some (r.word, rest)
    else (takeFirst a rest).map fun p => (p.1, r :: p.2)

/-- A suspended command goes on to its end, for its own agent (R140 item 8). It has a phase of its own (log 16). -/
def resume (p : Suspended) (s : State) : State :=
  { finishRest p.rest { s with who := p.agent, suspended := none } with who := s.who, phase := s.phase }

/-- The part of an agent's command up to its first gap, from a state in which that agent is `who`; `none`: the command is
not accepted now, and stays at the port. -/
def beginCommand (i : Instr) (s : State) : Option State :=
  match i with
  | .encode mux pga mode dr => if s.isOpen then some (encodeSteps mux pga mode dr s) else none
  | .decode w => if s.isOpen then some (decodeSteps w s) else none
  | .getf f w => if s.isOpen then some (getfSteps f w s) else none
  | .setf f v w => if s.isOpen then some (setfSteps f v w s) else none
  | .wrcfg w => if s.isOpen then some (wrcfgSteps w s) else none
  | .rdcfg => if s.isOpen then some (rdcfgSteps s) else none
  | .rdconv => if s.isOpen then some (rdconvSteps s) else none
  | .rdthr =>
    if s.isOpen then some { rdthrFirst s with suspended := (rdthrRest s).map (Suspended.mk s.who) } else none
  | .rdss m =>
    if s.isOpen then some { rdssFirst m s with suspended := (rdssRest s).map (Suspended.mk s.who) } else none
  | .reset => some (resetSteps s)
  | .init _ _ _ _ => none

/-- An agent's ill-formed word, taken while the other agent's command stands between its accesses: as at a step, it is
answered with ConfigurationError where a command of its operation is accepted (R107, R215). -/
def beginIllFormed (op : Op) (what : Operand) (s : State) : Option State :=
  if op = .reset ∨ (op ≠ .init ∧ s.isOpen = true) then some (raiseConfiguration what s) else none

/-- What an agent's word does up to its first gap, whatever it decodes to; `none`: nothing now, and it stays at the port. -/
def beginWord (d : Decoded) (s : State) : Option State :=
  match d with
  | .instr i => beginCommand i s
  | .error (.illFormed op what) => beginIllFormed op what s
  | .error (.reservedOpcode _) => none

/-- One move of the other agent while a command of `who` stands between its accesses: its suspended command goes on, or
else its next word at the port begins. Its command has a phase of its own (log 16). DESIGN CHOICE (log 3): a word that is
refused where the gap lies (60_exceptions.md R222), and INIT, stays at the port, before that agent's later words, and is
met by a step after the command in progress. -/
def otherMove (s : State) : State :=
  match s.suspended with
  | some p => if p.agent = otherOf s.who then resume p s else s
  | none =>
    match takeFirst (otherOf s.who) s.port with
    | none => s
    | some (w, rest) =>
      match beginWord (decode w) { s with who := otherOf s.who, phase := .idle, port := rest } with
      | some t => { t with who := s.who, phase := s.phase }
      | none => s

/-- So many moves of the other agent, each complete before the next (R60 item 1, R61). -/
def otherMoves : Nat → State → State
  | 0, s => s
  | n + 1, s => otherMoves n (otherMove s)

/-- A point between two accesses of one command: under `perAccess` the other agent may move there (R60 item 3, R252);
under `perCommand` it cannot. DESIGN CHOICE (log 3): under `perCommand` its codec commands, which take no lock and never wait
(40_codec.md R120, R60 item 4), are answered before the command in progress or after it, as the port has them, never here. -/
def gap (s : State) : State :=
  match s.scope with
  | .perAccess => otherMoves (nextGap s) (dropGap s)
  | .perCommand => s

/-- A command whose first access is made goes on through the gap to its end, if anything remains of it. -/
def throughGap (r : Option Rest) (s : State) : State :=
  match r with
  | some r => finishRest r (gap s)
  | none => s

end Sys2Proof.Machine
end

