-- ==== Sys2Proof/Machine/Sequencer.lean ====
section
/-! DEFINITION. The sequencer family: WRCFG, RDCFG, RDCONV, RDTHR, RDSS, RESET, INIT (41_sequencer.md). Each meaning is
acceptance (R140 item 1), then the operand check (item 2), then the steps in the order of the rule's pseudocode (item 4);
the first BusError ends the command (item 5). -/

namespace Sys2Proof.Machine

/-- WRCFG (R142): any word. -/
def execWrcfg (w : Word) (s : State) : Host.Outcome State Fault Refusal := needOpen s (wrcfgSteps w)

/-- RDCFG (R143): the word as read; `S.lastCfg` is not updated. -/
def execRdcfg (s : State) : Host.Outcome State Fault Refusal := needOpen s rdcfgSteps

/-- RDCONV (R144): the latest conversion's word; it triggers nothing and waits for nothing. -/
def execRdconv (s : State) : Host.Outcome State Fault Refusal := needOpen s rdconvSteps

/-- RDTHR (R145): index 0x02, then 0x03. -/
def execRdthr (s : State) : Host.Outcome State Fault Refusal :=
  needOpen s fun s => throughGap (rdthrRest s) (rdthrFirst s)

/-- RDSS (R146): write, settle, read. -/
def execRdss (m : BitVec 3) (s : State) : Host.Outcome State Fault Refusal :=
  needOpen s fun s => throughGap (rdssRest s) (rdssFirst m s)

/-- RESET (R147). -/
def execReset (s : State) : Host.Outcome State Fault Refusal := needMade s resetSteps

/-- A command of a released instance that is still suspended ends before a new instance is made (log 13). -/
def endSuspended (s : State) : State :=
  match s.suspended with
  | some p => resume p s
  | none => s

/-- The state construction leaves (R141, 10_state.md R38): the five construction values, no configuration written, the
handle open, IDLE, the lock free; no bus transaction. Of the device nothing is known (R39). -/
def construct (busIdx : Nat) (gain : Gain) (addr : DevAddr) (rate : BitVec 3) (s : State) : State :=
  { s with
    made := true, addr := addr, busIdx := busIdx, gain := gain, rate := rate, lastCfg := none,
    isOpen := true, phase := .idle, lock := .free, device := s.device.forget }

/-- The steps of INIT (R141): the operand check, then construction. DESIGN CHOICE (log 17): of several operands out of range
the error names the address before the gain before the data rate; the spec gives no order among them. -/
def initSteps (busIdx : Nat) (gain : BitVec 3) (addr : BitVec 8) (rate : Nat) (s : State) : State :=
  match addrOfBits addr with
  | none => raiseConfiguration .address s
  | some a =>
    match gainOfCode gain with
    | none => raiseConfiguration .gain s
    | some g =>
      if rateCodeOk rate then
        (construct busIdx g a (BitVec.ofNat 3 rate) (endSuspended s)).respond (.ok .none)
      else raiseConfiguration .dataRate s

/-- INIT (R141). -/
def execInit (busIdx : Nat) (gain : BitVec 3) (addr : BitVec 8) (rate : Nat) (s : State) :
    Host.Outcome State Fault Refusal :=
  needNoInstance s (initSteps busIdx gain addr rate)

end Sys2Proof.Machine
end

