-- ==== Sys2Proof/Machine/Dispatch.lean ====
section
/-! DEFINITION. The meaning of each instruction: one arm per constructor of Instr. -/

namespace Sys2Proof.Machine

def exec (i : Instr) (s : State) : Host.Outcome State Fault Refusal :=
  match i with
  | .encode mux pga mode dr => Sys2Proof.Machine.execEncode mux pga mode dr s
  | .decode w => Sys2Proof.Machine.execDecode w s
  | .getf f w => Sys2Proof.Machine.execGetf f w s
  | .setf f v w => Sys2Proof.Machine.execSetf f v w s
  | .wrcfg w => Sys2Proof.Machine.execWrcfg w s
  | .rdcfg => Sys2Proof.Machine.execRdcfg s
  | .rdconv => Sys2Proof.Machine.execRdconv s
  | .rdthr => Sys2Proof.Machine.execRdthr s
  | .rdss mux => Sys2Proof.Machine.execRdss mux s
  | .reset => Sys2Proof.Machine.execReset s
  | .init busIdx gain addr rate => Sys2Proof.Machine.execInit busIdx gain addr rate s

end Sys2Proof.Machine
end

