-- ==== Sys2Proof/Machine/Port.lean ====
section
/-! DEFINITION. The command port (30_encoding.md R100 to R108, 92_eei_decisions.md D11): taking the next request, what
an undecodable word does, and placing a word there. -/

namespace Sys2Proof.Machine

/-- The next request is taken: its agent's command is now the one in progress. -/
def takeRequest (r : Request) (rest : List Request) (s : State) : State := { s with port := rest, who := r.agent }

/-- An ill-formed word of an operation: acceptance first, as for the operation itself (60_exceptions.md R215 item 1),
then ConfigurationError, which changes nothing (R107). -/
def rejectIllFormed (op : Op) (what : Operand) (s : State) : Host.Outcome State Fault Refusal :=
  match op with
  | .encode => needCodec s (raiseConfiguration what)
  | .decode => needCodec s (raiseConfiguration what)
  | .getf => needCodec s (raiseConfiguration what)
  | .setf => needCodec s (raiseConfiguration what)
  | .wrcfg => needOpen s (raiseConfiguration what)
  | .rdcfg => needOpen s (raiseConfiguration what)
  | .rdconv => needOpen s (raiseConfiguration what)
  | .rdthr => needOpen s (raiseConfiguration what)
  | .rdss => needOpen s (raiseConfiguration what)
  | .reset => needMade s (raiseConfiguration what)
  | .init => needNoInstance s (raiseConfiguration what)

/-- A word the decoder rejects: a reserved opcode is refused (R108, R222), an ill-formed word is rejected as above. -/
def rejectWord (e : DecodeError) (s : State) : Host.Outcome State Fault Refusal :=
  match e with
  | .reservedOpcode op => .refused (.reservedOpcode op)
  | .illFormed op what => rejectIllFormed op what s

/-- The suspended command goes on before the next request is taken: always, if there is no request, or if it is of the
same agent (whose commands run one after another, R61); else if the other agent moves in the gap that lies here. -/
def suspendedFirst (p : Suspended) (s : State) : Bool :=
  match s.port with
  | [] => true
  | r :: _ => r.agent == p.agent || nextGap s != 0

/-- A command word is put at the head of the port by an agent. -/
def issue (a : Agent) (w : CmdWord) (s : State) : State := { s with port := ⟨a, w⟩ :: s.port }

/-- The operations that need an instance: all but the one that makes it (60_exceptions.md R222). -/
def needsInstance : Op → Bool
  | .encode => true | .decode => true | .getf => true | .setf => true
  | .wrcfg => true | .rdcfg => true | .rdconv => true | .rdthr => true | .rdss => true | .reset => true
  | .init => false

/-- What it takes for a word to be the next command that the block runs (log 6): the word stands at the head of the port
and no other command is suspended; and where its operation needs an instance and none exists, the instance that the boot
sequence constructs (70_reset_and_hazards.md R243 item 2), with the construction values the state holds. -/
def placeWord (w : CmdWord) (s : State) : State :=
  let s := { issue .caller w s with suspended := none }
  match opOfCode (opField w) with
  | some op => { s with made := s.made || needsInstance op }
  | none => s

end Sys2Proof.Machine
end

