-- ==== Sys2Proof/Machine/Step.lean ====
section
/-! DEFINITION. One step: the block takes the next command word from the port and runs it to its response
(92_eei_decisions.md D11). -/

namespace Sys2Proof.Machine

/-- The block takes the next request and runs it; with none it waits (70_reset_and_hazards.md R240). -/
def takeNext (s : State) : Host.Outcome State Fault Refusal :=
  match s.port with
  | [] => .next s
  | r :: rest =>
    match decode r.word with
    | .instr i => exec i (takeRequest r rest s)
    | .error e => rejectWord e (takeRequest r rest s)

/-- One step of the machine: the next request, or, where a command of the other agent is suspended, the end of that
command if it comes first (20_memory.md R60 item 3). -/
def step (s : State) : Host.Outcome State Fault Refusal :=
  match s.suspended with
  | none => takeNext s
  | some p => if suspendedFirst p s then .next (resume p (dropGap s)) else takeNext (dropGap s)

/-- `s` with the command word whose bits are `w` where the next step takes it (log 6). -/
def State.withFetchWord (s : State) (nbits w : Nat) : State :=
  placeWord (BitVec.ofNat 32 (w % 2 ^ nbits)) s

end Sys2Proof.Machine
end

