-- ==== Sys2Proof/Machine/Clients.lean ====
section
/-! DEFINITION. The block's callers. First the pseudo-operations of 30_encoding.md R113, which are call sequences of the
block's commands. Then the surrounding software of 42_surrounding_software.md, which 00_scope.md R4 puts outside the
block: pure functions over the block's commands, in exact real arithmetic (D29). Nothing of the machine depends on them,
and State holds none of their state. -/

namespace Sys2Proof.Machine

/-! ### Pseudo-operations (30_encoding.md R113) -/

/-- CHAN_MUX (R86, D9): the decided default `4 + channel` (DESIGN CHOICE, log 10). -/
def chanMux (c : Fin 4) : BitVec 3 := 4 + BitVec.ofNat 3 c.val

/-- A channel index must be 0 to 3 (R113, 42_surrounding_software.md R188). -/
def channelOf (n : Nat) : Except ErrKind (Fin 4) :=
  if h : n < 4 then .ok ⟨n, h⟩ else .error (.configurationError .channel)

/-- `readSingleShot(channel)`: the command it issues (R113). -/
def singleShotCommand (channel : Nat) : Except ErrKind Instr :=
  (channelOf channel).map fun c => .rdss (chanMux c)

/-- `voltage = sint16(word) * voltsPerBit` (R97, 42_surrounding_software.md R190). -/
def volts (g : Gain) (w : Word) : Rat := (sint16 w : Rat) * voltsPerBit g

/-- "the continuous-mode config word for `channel`" (R113). -/
def continuousWord (c : Fin 4) (g : Gain) (rate : BitVec 3) : Word := encodeWord (chanMux c) (gainCode g) 0 rate

/-- The config dump: RDCFG, then DECODE of the word it returned (R113, D28). -/
def dumpCommand (readBack : Word) : List Instr := [.rdcfg, .decode readBack]

/-- Construction with the hardware defaults, which are open parameters (41_sequencer.md R141, D21). -/
def initDefaults : Instr :=
  .init Config.defaultBusIdx (gainCode Config.defaultGain) (addrBits Config.defaultAddr) Config.defaultRate.toNat

/-! ### AcquisitionController (42_surrounding_software.md R171 to R187) -/

/-- SampleState (R171). A callback is known by a number. DESIGN CHOICE (log 22): no rule says what sets the `active` flag or
how it is tied to AcquisitionMode, and no function here writes it. -/
structure SampleState where
  current : Int
  accepted : Int
  active : Bool
  callback : Option Nat
deriving DecidableEq, Repr

/-- AcquisitionMode (R172). -/
inductive AcqMode where
  | idle
  | fast (channel : Fin 4)
  | slow (channels : List (Fin 4))
deriving DecidableEq, Repr

/-- The fast-mode rate bound (R176). -/
def fastRateOk (rate : BitVec 3) (hz : Rat) : Bool := hz ≤ (rateOf rate : Rat)

/-- The slow-mode rate bound for `n` channels (R178). -/
def slowRateOk (rate : BitVec 3) (n : Nat) (hz : Rat) : Bool := hz ≤ (rateOf rate : Rat) / (2 * (n : Rat))

/-- Which error a start gives, if any. When both apply either may be reported (R175, 93_implementation_defined.md I23):
`modeFirst` says which. -/
def startError (modeFirst conflict tooFast : Bool) : Option ErrKind :=
  if conflict && (modeFirst || !tooFast) then some .modeConflict
  else if tooFast then some .rateExceeded
  else none

/-- `startFast` (R173 to R177, R182): the new mode, and the one command it issues. DESIGN CHOICE (log 19): a channel outside
0 to 3 is reported before ModeConflict and RateExceeded; R175 states no order between them. DESIGN CHOICE (log 23): once the
start is accepted the mode is fast, whatever that command's response; no rule says what holds when it fails. -/
def startFast (modeFirst : Bool) (m : AcqMode) (channel : Nat) (hz : Rat) (g : Gain) (rate : BitVec 3) :
    Except ErrKind (AcqMode × List Instr) :=
  match channelOf channel with
  | .error e => .error e
  | .ok c =>
    let conflict := match m with
      | .slow _ => true
      | .fast _ => false
      | .idle => false
    match startError modeFirst conflict (!fastRateOk rate hz) with
    | some e => .error e
    | none => .ok (.fast c, [.wrcfg (continuousWord c g rate)])

/-- `startSlow` (R173, R174, R178, R182): the new mode; it issues no command before its first tick. `none`: an empty
channel set, which is refused (I22). DESIGN CHOICE (log 18): the set is a list in the caller's order, and a start begins
at its head; R180 states neither, and I21 makes them a parameter. A channel given twice is sampled twice a cycle and counts
twice in `N` (DESIGN CHOICE, log 18); R178 speaks of a set and says nothing of that. -/
def startSlow (modeFirst : Bool) (m : AcqMode) (channels : List (Fin 4)) (hz : Rat) (rate : BitVec 3) :
    Option (Except ErrKind AcqMode) :=
  if channels.isEmpty then none
  else
    let conflict := match m with
      | .fast _ => true
      | .slow _ => false
      | .idle => false
    match startError modeFirst conflict (!slowRateOk rate channels.length hz) with
    | some e => some (.error e)
    | none => some (.ok (.slow channels))

/-- `stop()` (R173, R181). DESIGN CHOICE (log 22): the flag that R181 says is cleared is taken to be the mode, so mode Idle
stands for the cleared flag; `SampleState.active` is left alone. -/
def stopSampling (_ : AcqMode) : AcqMode := .idle

/-- One tick of the background task: the command it issues and the mode with the round robin advanced (R177, R180). The order
is the list's, head first (DESIGN CHOICE, log 18). DESIGN CHOICE (log 24): it advances whatever the response of the poll;
R187 does not say which channel the period after a failed poll takes. -/
def tick : AcqMode → Option (Instr × AcqMode)
  | .idle => none
  | .fast c => some (.rdconv, .fast c)
  | .slow [] => none
  | .slow (c :: cs) => some (.rdss (chanMux c), .slow (cs ++ [c]))

/-- The hysteresis rule (R184), as written, its crossed bounds for a negative accepted value included (R185, C7). -/
def publishes (threshold : Rat) (accepted r : Int) : Bool :=
  decide ((r : Rat) < accepted * (1 - threshold)) || decide ((accepted : Rat) * (1 + threshold) < r)

/-- A sample arrives (R184): the new state, and the callback it invokes with the sample. -/
def sample (threshold : Rat) (r : Int) (st : SampleState) : SampleState × Option (Nat × Int) :=
  if publishes threshold st.accepted r then
    ({ st with current := r, accepted := r }, st.callback.map fun c => (c, r))
  else ({ st with current := r }, none)

/-- A poll's response arrives: a failed poll leaves the state alone and ends nothing (R187). DESIGN CHOICE (log 20): it is
skipped and no callback is called; R187 also allows a report through the callback's error path. -/
def poll (threshold : Rat) (resp : Response) (st : SampleState) : SampleState × Option (Nat × Int) :=
  match resp with
  | .ok (.word w) => sample threshold (sint16 w) st
  | .ok (.code _) => (st, none)
  | .ok (.pair _ _) => (st, none)
  | .ok (.fields _) => (st, none)
  | .ok .none => (st, none)
  | .err _ => (st, none)

/-- `onChange(channel, callback|none)` (R193): replaces, or deregisters. -/
def onChange (cb : Option Nat) (st : SampleState) : SampleState := { st with callback := cb }

/-- `reset()` of the exposed API (R195): stop, then the block's RESET. -/
def teardown (m : AcqMode) : AcqMode × Instr := (stopSampling m, .reset)

/-! ### ChannelView (R188 to R192) -/

/-- A voltage read (R189): the command to issue when idle, else the voltage of the accepted value. -/
def viewRead (m : AcqMode) (c : Fin 4) (g : Gain) (st : SampleState) : Instr ⊕ Rat :=
  match m with
  | .idle => .inl (.rdss (chanMux c))
  | .fast _ => .inr ((st.accepted : Rat) * voltsPerBit g)
  | .slow _ => .inr ((st.accepted : Rat) * voltsPerBit g)

/-- Min/max tracking (R192): monotonic widening only. -/
def widen (x : Rat) (range : Rat × Rat) : Rat × Rat := (min range.1 x, max range.2 x)

end Sys2Proof.Machine
end

