-- ==== Sys2Proof/Safety.lean ====
section
/-! DEFINITION. What counts as a safe state, in the terms the statements use: the invariant of the machine, and the
conditions under which a sequencer command runs to its own effect. -/

namespace Sys2Proof.Machine

/-- No command is in progress: IDLE, and the lock free (10_state.md R27, R28). -/
abbrev AtRest (s : State) : Prop := s.phase = .idle ∧ s.lock = .free

/-- A call the sequencer may make: it writes no index but 0x01 (41_sequencer.md R151, 20_memory.md R64). -/
def eventInMap : BusEvent → Bool
  | .call _ _ _ (.read _) => true
  | .call _ _ _ (.write i _) => i == .config
  | .call _ _ _ .close => true
  | .wait _ _ => true

/-- Every call made so far is one the sequencer may make. -/
abbrev LogInMap (s : State) : Prop := s.busLog.all eventInMap = true

/-- A write of index 0x01 was made. -/
def isConfigWrite : BusEvent → Bool
  | .call _ _ _ (.write i _) => i == .config
  | .call _ _ _ (.read _) => false
  | .call _ _ _ .close => false
  | .wait _ _ => false

/-- What the block knows of the device hangs together: a word written successfully reached the device; a word in it, and a
conversion that can end, came by some agent's write; and that write was made on the bus. -/
abbrev DeviceKnowledge (s : State) : Prop :=
  (s.lastCfg.isSome = true → s.device.cfgKnown = true) ∧
  (s.device.convPending ≠ 0 → s.device.writer.isSome = true) ∧
  (s.device.cfgKnown = true → s.device.writer.isSome = true) ∧
  (s.device.writer.isSome = true → s.busLog.any isConfigWrite = true)

/-- A command is suspended only under `perAccess` (20_memory.md R60 item 3). -/
abbrev SuspensionLegal (s : State) : Prop := s.suspended.isSome = true → s.scope = .perAccess

/-- The invariant of the machine. -/
abbrev MachineInv (s : State) : Prop := AtRest s ∧ LogInMap s ∧ DeviceKnowledge s ∧ SuspensionLegal s

/-- A sequencer command other than INIT is accepted (41_sequencer.md R140 item 1), and the lock is free. -/
abbrev Ready (s : State) : Prop := s.made = true ∧ s.isOpen = true ∧ AtRest s

/-- Nothing of the other agent falls into the command's next gap (20_memory.md R60 item 3): none can (log 3), or none does. -/
abbrev GapQuiet (s : State) : Prop := s.scope = .perCommand ∨ ∃ rest, s.gaps = 0 :: rest

/-- A transaction the environment lets succeed. -/
abbrev Succeeds (a : BusAnswer) : Prop := a.failure = none

/-! ### What a transaction leaves of the device. A register's content is its word with its flag: a register whose flag is
false holds any value. -/

/-- No conversion can end (20_memory.md R65): single-shot, and every conversion that began has ended. -/
abbrev NoneCanEnd (d : Device) : Prop := d.cfgKnown = true ∧ d.config.getLsbD 8 = true ∧ d.convPending = 0

/-- The config register, what is known of it, and whose word it is are as before. -/
abbrev ConfigKept (d e : Device) : Prop := e.config = d.config ∧ e.cfgKnown = d.cfgKnown ∧ e.writer = d.writer

/-- The low threshold and what is known of it are as before. -/
abbrev LowKept (d e : Device) : Prop := e.lowThr = d.lowThr ∧ e.lowKnown = d.lowKnown

/-- The high threshold and what is known of it are as before. -/
abbrev HighKept (d e : Device) : Prop := e.highThr = d.highThr ∧ e.highKnown = d.highKnown

/-- The conversion register is neither read nor written, and no conversion begins: what is known of it is lost exactly where
a conversion ended that could, and otherwise no conversion is dropped (20_memory.md R56, R59, R65). -/
abbrev ConversionKept (d e : Device) (ended : Bool) : Prop :=
  e.conversion = d.conversion ∧ e.convPending ≤ d.convPending ∧
  (ended = false ∨ NoneCanEnd d → e.convPending = d.convPending ∧ e.convKnown = d.convKnown) ∧
  (ended = true → ¬NoneCanEnd d → e.convKnown = false)

/-- One conversion more can end, triggered by the agent in progress whose word did not stay in the device (60_exceptions.md
R216; log 21); what is known of the conversion register is lost exactly where an earlier one ended that could. -/
abbrev ConversionBegun (s : State) (d : Device) (ended : Bool) : Prop :=
  d.writer = some s.who ∧ d.convPending ≠ 0 ∧ d.convPending ≤ s.device.convPending + 1 ∧
  (ended = false ∨ NoneCanEnd s.device →
    d.convPending = s.device.convPending + 1 ∧ d.convKnown = s.device.convKnown) ∧
  (ended = true → ¬NoneCanEnd s.device → d.convKnown = false)

/-! ### The field selectors -/

/-- The selector of each field, as 30_encoding.md R105 numbers them. -/
def selectorNumber : Field → Nat
  | .os => 0 | .mux => 1 | .pga => 2 | .mode => 3 | .dr => 4 | .cmode => 5 | .cpol => 6 | .clat => 7 | .cque => 8

/-! ### Ill-formed command words (30_encoding.md R101, R104, R105, R107), read bit by bit -/

/-- The bits of `arg` that must be zero (R104). -/
abbrev ArgBroken (op : Op) (arg : Word) : Prop :=
  match op with
  | .encode => arg.extractLsb' 15 1 ≠ 0 ∨ arg.extractLsb' 0 5 ≠ 0
  | .rdss => arg.extractLsb' 3 13 ≠ 0
  | .rdcfg => arg ≠ 0
  | .rdconv => arg ≠ 0
  | .rdthr => arg ≠ 0
  | .reset => arg ≠ 0
  | .decode => False
  | .getf => False
  | .setf => False
  | .wrcfg => False
  | .init => False

/-- A word of an operation breaks a must-be-zero constraint (R101, R104). -/
abbrev ZeroBroken (op : Op) (w : CmdWord) : Prop :=
  (op ≠ .getf ∧ op ≠ .setf ∧ w.extractLsb' 24 4 ≠ 0) ∨ w.extractLsb' 19 5 ≠ 0 ∨
    (op ≠ .setf ∧ w.extractLsb' 16 3 ≠ 0) ∨ ArgBroken op (w.extractLsb' 0 16)

/-- A word of an operation is ill-formed (R107): a must-be-zero bit, a selector 9 to 15, a code of `2^width` or more, or a
gain code 6 or 7 in ENCODE or INIT. -/
abbrev WordBroken (op : Op) (w : CmdWord) : Prop :=
  ZeroBroken op w ∨
    ((op = .getf ∨ op = .setf) ∧ 9 ≤ (w.extractLsb' 24 4).toNat) ∨
    (op = .setf ∧ ∃ f, fieldOfSelector (w.extractLsb' 24 4) = some f ∧ 2 ^ f.width ≤ (w.extractLsb' 16 3).toNat) ∨
    (op = .encode ∧ 6 ≤ (w.extractLsb' 9 3).toNat) ∨
    (op = .init ∧ 6 ≤ (w.extractLsb' 2 3).toNat)

/-- A live instance exists: it was constructed and its handle is open (60_exceptions.md R222). -/
abbrev Live (s : State) : Prop := s.made = true ∧ s.isOpen = true

/-- The block accepts a command of an operation (41_sequencer.md R140 item 1, 60_exceptions.md R215 item 1; the codec at any
phase, log 14; INIT after a release, log 13). -/
abbrev Accepts (op : Op) (s : State) : Prop :=
  match op with
  | .encode => Live s
  | .decode => Live s
  | .getf => Live s
  | .setf => Live s
  | .init => ¬Live s
  | .reset => s.made = true ∧ s.phase = .idle
  | .wrcfg => s.made = true ∧ s.phase = .idle ∧ s.isOpen = true
  | .rdcfg => s.made = true ∧ s.phase = .idle ∧ s.isOpen = true
  | .rdconv => s.made = true ∧ s.phase = .idle ∧ s.isOpen = true
  | .rdthr => s.made = true ∧ s.phase = .idle ∧ s.isOpen = true
  | .rdss => s.made = true ∧ s.phase = .idle ∧ s.isOpen = true

/-- The next step takes an INIT from the port (41_sequencer.md R141): no suspended command comes before it. -/
abbrev TakesInit (s : State) : Prop :=
  (∀ p, s.suspended = some p → suspendedFirst p s = false) ∧
    ∃ r rest busIdx gain addr rate, s.port = r :: rest ∧ decode r.word = .instr (.init busIdx gain addr rate)

/-- The operations that make a bus transaction (R26, R100). -/
def usesBus : Op → Bool
  | .wrcfg => true | .rdcfg => true | .rdconv => true | .rdthr => true | .rdss => true
  | .encode => false | .decode => false | .getf => false | .setf => false | .reset => false | .init => false

/-- The codec's operations (40_codec.md). -/
def isCodec : Op → Bool
  | .encode => true | .decode => true | .getf => true | .setf => true
  | .wrcfg => false | .rdcfg => false | .rdconv => false | .rdthr => false | .rdss => false | .reset => false
  | .init => false

/-! ### Reading the bus log -/

/-- An event is a call of `close()`. -/
def isClose : BusEvent → Bool
  | .call _ _ _ .close => true
  | .call _ _ _ (.read _) => false
  | .call _ _ _ (.write _ _) => false
  | .wait _ _ => false

/-- An event goes to the instance's own device: its bus index and its address (10_state.md R21, R22). -/
def onTarget (bus : Nat) (addr : DevAddr) : BusEvent → Bool
  | .call _ b a _ => b == bus && a == addr
  | .wait _ _ => true

end Sys2Proof.Machine
end

