-- ==== Sys2Proof/Certificates/Slice0/Obligations.lean ====
section
/-! DEFINITION. The statements for the provers. Each docstring names the rules of spec/ it formalises; where a clause is
the model's own choice it says so and names the log entry. -/

open Sys2Proof Sys2Proof.Machine

/-! ### The command port -/

/-- 30_encoding.md R106: the eleven worked command words decode to the commands they stand for. -/
def Obligations.WorkedEncodingsDecode : Prop :=
  decode 0x00004380 = .instr (.encode 4 1 1 4) ∧
  decode 0x1000C383 = .instr (.decode 0xC383) ∧
  decode 0x2400C383 = .instr (.getf .dr 0xC383) ∧
  decode 0x3105C383 = .instr (.setf .mux 5 0xC383) ∧
  decode 0x4000C383 = .instr (.wrcfg 0xC383) ∧
  decode 0x50000000 = .instr .rdcfg ∧
  decode 0x60000000 = .instr .rdconv ∧
  decode 0x70000000 = .instr .rdthr ∧
  decode 0x80000004 = .instr (.rdss 4) ∧
  decode 0x90000000 = .instr .reset ∧
  decode 0xA0000184 = .instr (.init 1 1 0x48 4)

/-- R101 to R105: every well-formed instruction, with every operand at every value the format admits, is what its command
word decodes to. -/
def Obligations.DecodeOfEncode : Prop :=
  ∀ i : Instr, i.wellFormed = true → decode (encode i) = .instr i

/-- R101 to R105: a word that decodes has one meaning and no spare bit: its instruction is well formed, and encodes to the
word itself. -/
def Obligations.EncodeOfDecoded : Prop :=
  ∀ (w : CmdWord) (i : Instr), decode w = .instr i → i.wellFormed = true ∧ encode i = w

/-- R103, R107: the row is chosen by `op` alone; a word of a defined `op` that breaks no constraint of its row decodes to
an instruction of that row. -/
def Obligations.UnbrokenWordDecodes : Prop :=
  ∀ (w : CmdWord) (op : Op), op.code = w.extractLsb' 28 4 → ¬WordBroken op w →
    ∃ i, decode w = .instr i ∧ i.op = op

/-- R107, 60_exceptions.md R215: a word of a defined `op` that breaks a constraint, where the block accepts a command of
that operation (for INIT after a release log 13, for the codec at any phase log 14), completes with ConfigurationError and
changes nothing: the request is taken and answered. Which operand the error names is not said (log 17). -/
def Obligations.BrokenWordIsConfigurationError : Prop :=
  ∀ (s : State) (r : Request) (rest : List Request) (op : Op),
    s.suspended = none → s.port = r :: rest → op.code = r.word.extractLsb' 28 4 → WordBroken op r.word → Accepts op s →
    ∃ what, step s = .next { s with
      port := rest, who := r.agent, delivered := ⟨r.agent, .err (.configurationError what)⟩ :: s.delivered }

/-- R108, R222: a command word whose `op` is 0xB to 0xF is refused. -/
def Obligations.ReservedOpcodeRefused : Prop :=
  ∀ (s : State) (r : Request) (rest : List Request),
    s.suspended = none → s.port = r :: rest → 0xB ≤ r.word.toNat / 2 ^ 28 →
    step s = .refused (.reservedOpcode (r.word.extractLsb' 28 4))

/-- A step runs the decoded instruction, for the agent that issued it, with the request taken from the port; where the
other agent's command is suspended, the step is that command's end if it comes first, else the same on the state in which
the gap's choice was used (20_memory.md R60 item 3; log 3, log 6). -/
def Obligations.StepRunsDecoded : Prop :=
  ∀ (s : State) (r : Request) (rest : List Request) (i : Instr),
    s.port = r :: rest → decode r.word = .instr i →
    (s.suspended = none → step s = exec i { s with port := rest, who := r.agent }) ∧
    (∀ p, s.suspended = some p →
      step s = if suspendedFirst p s then .next (resume p (dropGap s))
        else exec i { dropGap s with port := rest, who := r.agent })

/-- 70_reset_and_hazards.md R240: with no command at the port, and none suspended, the block waits. -/
def Obligations.IdlePortWaits : Prop :=
  ∀ s : State, s.port = [] → s.suspended = none → step s = .next s

/-- 41_sequencer.md R140 item 8: a command that ends delivers its response to the agent that issued it, and what is
delivered within it goes to the other agent (log 3); under `perCommand` nothing is, the other agent's codec results neither
(the model's choice, log 3). INIT is left out: it lets a command of a
released instance end first (log 13). -/
def Obligations.ResponseToIssuer : Prop :=
  ∀ (i : Instr) (s t : State), i.op ≠ .init → exec i s = .next t →
    ∃ (r : Response) (within : List Delivery),
      t.delivered = ⟨s.who, r⟩ :: (within ++ s.delivered) ∧
      (∀ d ∈ within, d.dest = otherOf s.who) ∧ (s.scope = .perCommand → within = [])

/-- 30_encoding.md R102, R108, 60_exceptions.md R210, R213: every status the block produces is 0, 1 or 2, in a command and in
any step: a command, the end of a suspended one, or the answer to an ill-formed word. -/
def Obligations.StatusIsOkBusOrConfiguration : Prop :=
  (∀ (i : Instr) (s t : State), exec i s = .next t →
    ∃ new, t.delivered = new ++ s.delivered ∧ ∀ d ∈ new, (statusCode d.resp).toNat ≤ 2) ∧
  (∀ s t : State, step s = .next t →
    ∃ new, t.delivered = new ++ s.delivered ∧ ∀ d ∈ new, (statusCode d.resp).toNat ≤ 2)

/-- R102: the response lines: a word or a code in the low half; the low threshold low and the high threshold high. What
the other lines carry is any value (log 12). -/
def Obligations.ResponseLinesCarryPayload : Prop :=
  ∀ (free : BitVec 32) (w lo hi : Word),
    (responseLines free (.ok (.word w))).extractLsb' 0 16 = w ∧
    (responseLines free (.ok (.code w))).extractLsb' 0 16 = w ∧
    (responseLines free (.ok (.pair lo hi))).toNat = hi.toNat * 65536 + lo.toNat

/-! ### The codec -/

/-- 30_encoding.md R83: the nine masks and their complements are the table's numbers. They are those of the decided layout
(D1, log 11). -/
def Obligations.FieldMaskNumbers : Prop :=
  fieldMask .os = 0x8000 ∧ fieldMask .mux = 0x7000 ∧ fieldMask .pga = 0x0E00 ∧ fieldMask .mode = 0x0100 ∧
  fieldMask .dr = 0x00E0 ∧ fieldMask .cmode = 0x0010 ∧ fieldMask .cpol = 0x0008 ∧ fieldMask .clat = 0x0004 ∧
  fieldMask .cque = 0x0003 ∧
  fieldClear .os = 0x7FFF ∧ fieldClear .mux = 0x8FFF ∧ fieldClear .pga = 0xF1FF ∧ fieldClear .mode = 0xFEFF ∧
  fieldClear .dr = 0xFF1F ∧ fieldClear .cmode = 0xFFEF ∧ fieldClear .cpol = 0xFFF7 ∧ fieldClear .clat = 0xFFFB ∧
  fieldClear .cque = 0xFFFC

/-- R84: no two masks overlap, together they cover the word (their numbers add to 0xFFFF with no carry), and each is one
run of `width` adjacent bits from `off` up. -/
def Obligations.FieldMasksPartitionWord : Prop :=
  (∀ f g, f ≠ g → fieldMask f &&& fieldMask g = 0) ∧
  (fieldMask .os ||| fieldMask .mux ||| fieldMask .pga ||| fieldMask .mode ||| fieldMask .dr ||| fieldMask .cmode |||
    fieldMask .cpol ||| fieldMask .clat ||| fieldMask .cque = 0xFFFF) ∧
  ((fieldMask .os).toNat + (fieldMask .mux).toNat + (fieldMask .pga).toNat + (fieldMask .mode).toNat +
    (fieldMask .dr).toNat + (fieldMask .cmode).toNat + (fieldMask .cpol).toNat + (fieldMask .clat).toNat +
    (fieldMask .cque).toNat = 0xFFFF) ∧
  (∀ (f : Field) (n : Nat), (fieldMask f).getLsbD n = decide (f.off ≤ n ∧ n < f.off + f.width))

/-- 40_codec.md R121: GETF, its encoding with the selectors of R105, its result by the pseudocode and as a number below `2^width`; it completes
wherever a live instance exists, at any phase (log 14), and changes nothing but its response. -/
def Obligations.GetfExtractsField : Prop :=
  ∀ (f : Field) (w : Word) (s : State),
    opField (encode (.getf f w)) = 0x2 ∧ argField (encode (.getf f w)) = w ∧
    fselField (encode (.getf f w)) = f.selector ∧ f.selector.toNat = selectorNumber f ∧
    (Live s → ∃ c : Word,
      exec (.getf f w) s = .next { s with delivered := ⟨s.who, .ok (.code c)⟩ :: s.delivered } ∧
      c = (w &&& fieldMask f) >>> f.off ∧ c.toNat = w.toNat / 2 ^ f.off % 2 ^ f.width ∧ c.toNat < 2 ^ f.width)

/-- R122: SETF, its encoding with the selectors of R105; with a code that fits, the result by the pseudocode: the field reads back, every other field
is as before, the code the field holds changes nothing; with a code too wide, ConfigurationError. Either way nothing
changes but the response. Two SETFs on different fields commute, on one field the later stays. It needs a live
instance, at any phase (log 14). -/
def Obligations.SetfReplacesField : Prop :=
  ∀ (f : Field) (v : BitVec 3) (w : Word) (s : State),
    (opField (encode (.setf f v w)) = 0x3 ∧ fselField (encode (.setf f v w)) = f.selector ∧
      f.selector.toNat = selectorNumber f ∧ valField (encode (.setf f v w)) = v ∧ argField (encode (.setf f v w)) = w) ∧
    (Live s → v.toNat < 2 ^ f.width → ∃ r : Word,
      exec (.setf f v w) s = .next { s with delivered := ⟨s.who, .ok (.word r)⟩ :: s.delivered } ∧
      r = (w &&& ~~~ fieldMask f) ||| (v.setWidth 16 <<< f.off) ∧
      extractField r f = v.setWidth 16 ∧ (∀ g, g ≠ f → extractField r g = extractField w g) ∧
      (extractField w f = v.setWidth 16 → r = w) ∧
      (∀ (g : Field) (u : BitVec 3), g ≠ f → u.toNat < 2 ^ g.width →
        insertField r g (u.setWidth 16) = insertField (insertField w g (u.setWidth 16)) f (v.setWidth 16)) ∧
      (∀ u : BitVec 3, u.toNat < 2 ^ f.width →
        insertField r f (u.setWidth 16) = insertField w f (u.setWidth 16))) ∧
    (Live s → 2 ^ f.width ≤ v.toNat →
      exec (.setf f v w) s =
        .next { s with delivered := ⟨s.who, .err (.configurationError .fieldCode)⟩ :: s.delivered })

/-- R123, R104, R107: ENCODE, its encoding; with a usable gain code the word is TEMPLATE plus the codes in place, TEMPLATE OR
the command word's `arg`, equal to four SETFs of TEMPLATE; with gain code 6 or 7, ConfigurationError. Nothing changes but the response. The numbers are those of the
decided layout and template (D1, D10, log 11); it needs a live instance, at any phase (log 14). -/
def Obligations.EncodeBuildsWord : Prop :=
  ∀ (mux pga : BitVec 3) (mode : BitVec 1) (dr : BitVec 3) (s : State),
    opField (encode (.encode mux pga mode dr)) = 0x0 ∧ fselField (encode (.encode mux pga mode dr)) = 0 ∧
    valField (encode (.encode mux pga mode dr)) = 0 ∧
    (Live s → pga.toNat ≤ 5 → ∃ r : Word,
      exec (.encode mux pga mode dr) s = .next { s with delivered := ⟨s.who, .ok (.word r)⟩ :: s.delivered } ∧
      r.toNat = 0x8003 + mux.toNat * 4096 + pga.toNat * 512 + mode.toNat * 256 + dr.toNat * 32 ∧
      r = 0x8003 ||| argField (encode (.encode mux pga mode dr)) ∧
      r = insertField (insertField (insertField (insertField 0x8003 .mux (mux.setWidth 16)) .pga (pga.setWidth 16))
        .mode (mode.setWidth 16)) .dr (dr.setWidth 16)) ∧
    (Live s → 6 ≤ pga.toNat →
      exec (.encode mux pga mode dr) s =
        .next { s with delivered := ⟨s.who, .err (.configurationError .gain)⟩ :: s.delivered })

/-- R124: DECODE, its encoding; each of the nine codes is GETF's of that field; packing them back with nine SETFs on any
word gives the word decoded. Nothing changes but the response; it needs a live instance, at any phase
(log 14). -/
def Obligations.DecodeSplitsWord : Prop :=
  ∀ (w x : Word) (s : State),
    opField (encode (.decode w)) = 0x1 ∧ argField (encode (.decode w)) = w ∧
    (Live s → ∃ F : Fields,
      exec (.decode w) s = .next { s with delivered := ⟨s.who, .ok (.fields F)⟩ :: s.delivered } ∧
      F.os.setWidth 16 = extractField w .os ∧ F.mux.setWidth 16 = extractField w .mux ∧
      F.pga.setWidth 16 = extractField w .pga ∧ F.mode.setWidth 16 = extractField w .mode ∧
      F.dr.setWidth 16 = extractField w .dr ∧ F.cmode.setWidth 16 = extractField w .cmode ∧
      F.cpol.setWidth 16 = extractField w .cpol ∧ F.clat.setWidth 16 = extractField w .clat ∧
      F.cque.setWidth 16 = extractField w .cque ∧
      insertField (insertField (insertField (insertField (insertField (insertField (insertField (insertField
        (insertField x .os (F.os.setWidth 16)) .mux (F.mux.setWidth 16)) .pga (F.pga.setWidth 16))
        .mode (F.mode.setWidth 16)) .dr (F.dr.setWidth 16)) .cmode (F.cmode.setWidth 16)) .cpol (F.cpol.setWidth 16))
        .clat (F.clat.setWidth 16)) .cque (F.cque.setWidth 16) = w)

/-- R125: the round trip, for every override, with the template's codes in the other five fields; and the converse, which
holds exactly on ENCODE's image. -/
def Obligations.CodecRoundTrip : Prop :=
  (∀ (mux pga : BitVec 3) (mode : BitVec 1) (dr : BitVec 3),
    decodeFields (encodeWord mux pga mode dr) =
      { os := 1, mux := mux, pga := pga, mode := mode, dr := dr, cmode := 0, cpol := 0, clat := 0, cque := 3 }) ∧
  (∀ w : Word,
    ((decodeFields w).pga.toNat ≤ 5 ∧
      encodeWord (decodeFields w).mux (decodeFields w).pga (decodeFields w).mode (decodeFields w).dr = w) ↔
    (w &&& 0x801F = 0x8003 ∧ (extractField w .pga).toNat ≤ 5))

/-- R126: ENCODE sets no foreign bit. -/
def Obligations.EncodeSetsNoForeignBit : Prop :=
  ∀ (mux pga : BitVec 3) (mode : BitVec 1) (dr : BitVec 3),
    let r := encodeWord mux pga mode dr
    r &&& fieldMask .mux = mux.setWidth 16 <<< Field.off .mux ∧
    r &&& fieldMask .pga = pga.setWidth 16 <<< Field.off .pga ∧
    r &&& fieldMask .mode = mode.setWidth 16 <<< Field.off .mode ∧
    r &&& fieldMask .dr = dr.setWidth 16 <<< Field.off .dr ∧
    r &&& ~~~ (fieldMask .mux ||| fieldMask .pga ||| fieldMask .mode ||| fieldMask .dr) =
      template &&& ~~~ (fieldMask .mux ||| fieldMask .pga ||| fieldMask .mode ||| fieldMask .dr) ∧
    (r ^^^ template) &&& 0x7FE0 = r ^^^ template

/-- R128: field independence and read-back. -/
def Obligations.FieldsIndependent : Prop :=
  ∀ (w : Word) (f g : Field) (v u : Word), v.toNat < 2 ^ f.width → u.toNat < 2 ^ g.width →
    extractField (insertField w f v) f = v ∧
    insertField w f (extractField w f) = w ∧
    (f ≠ g → extractField (insertField w f v) g = extractField w g ∧
      insertField (insertField w f v) g u = insertField (insertField w g u) f v) ∧
    (f = g → insertField (insertField w f v) g u = insertField w g u)

/-- R120, R127: every codec command completes in every state with a live instance (60_exceptions.md R222), whatever else the
state is, with one response that depends on the operands alone and is no BusError, and changes nothing but that response.
That the phase does not matter is log 14. -/
def Obligations.CodecIsStateless : Prop :=
  ∀ i : Instr, isCodec i.op = true →
    ∃ r : Response, (∀ idx dir, r ≠ .err (.busError idx dir)) ∧
      ∀ s : State, Live s → exec i s = .next { s with delivered := ⟨s.who, r⟩ :: s.delivered }

/-- 30_encoding.md R97, 40_codec.md R129: the raw code is the word read in two's complement, -32768 to 32767. -/
def Obligations.RawCodeIsTwosComplement : Prop :=
  (∀ w : Word, sint16 w = w.toInt ∧ -32768 ≤ sint16 w ∧ sint16 w ≤ 32767) ∧
  sint16 0x8000 = -32768 ∧ sint16 0xFFFF = -1 ∧ sint16 0x0000 = 0 ∧ sint16 0x7FFF = 32767

/-! ### Construction and release -/

/-- 10_state.md R38, R41: what the reset state holds of what the spec gives: no configuration written, IDLE, the lock
free; no instance yet, and the open flag as it stands after construction (log 1). -/
def Obligations.ResetStateValues : Prop :=
  State.reset.made = false ∧ State.reset.lastCfg = none ∧ State.reset.isOpen = true ∧ State.reset.phase = .idle ∧
  State.reset.lock = .free ∧ State.reset.port = [] ∧ State.reset.busLog = [] ∧ State.reset.delivered = []

/-- 41_sequencer.md R141, 10_state.md R38, R39: INIT with valid operands, where no live instance exists, completes: the
construction values are held, `lastCfg` is none, the handle is open, IDLE, the lock free, and nothing is known of the
device. That the count of pending conversions is then 0 is the model's choice (log 5), where R41 and 70_reset_and_hazards.md
R242 say unspecified. With no command suspended that is all that changes, with the response: no bus transaction was made, and the
device's four words are as before. A suspended command of the released instance ends first, and INIT itself makes no
transaction. That an instance whose handle was released does not stop it, and that end, are log 13. -/
def Obligations.InitConstructs : Prop :=
  ∀ (s : State) (busIdx : Nat) (gain : BitVec 3) (addr : BitVec 8) (rate : Nat),
    ¬Live s → gain.toNat ≤ 5 → 0x48 ≤ addr.toNat → addr.toNat ≤ 0x4B → rate ≤ 7 →
    ∃ t, exec (.init busIdx gain addr rate) s = .next t ∧
      t.made = true ∧ addrBits t.addr = addr ∧ t.busIdx = busIdx ∧ gainCode t.gain = gain ∧ t.rate.toNat = rate ∧
      t.lastCfg = none ∧ t.isOpen = true ∧ t.phase = .idle ∧ t.lock = .free ∧ t.suspended = none ∧ t.who = s.who ∧
      t.device.cfgKnown = false ∧ t.device.convKnown = false ∧ t.device.lowKnown = false ∧
      t.device.highKnown = false ∧ t.device.convPending = 0 ∧ t.device.writer = none ∧
      (s.suspended = none →
        t = { s with
          made := true, addr := t.addr, busIdx := busIdx, gain := t.gain, rate := t.rate, lastCfg := none,
          isOpen := true, phase := .idle, lock := .free, device := t.device,
          delivered := ⟨s.who, .ok .none⟩ :: s.delivered } ∧
        t.device.conversion = s.device.conversion ∧ t.device.config = s.device.config ∧
        t.device.lowThr = s.device.lowThr ∧ t.device.highThr = s.device.highThr) ∧
      (∀ p, s.suspended = some p →
        t.busLog = (resume p s).busLog ∧ t.delivered = ⟨s.who, .ok .none⟩ :: (resume p s).delivered)

/-- R141, 60_exceptions.md R212, R215: INIT with an address outside the four, a gain that is none of the six or a rate
above 7 is a ConfigurationError; nothing else changes. -/
def Obligations.InitChecksOperands : Prop :=
  ∀ (s : State) (busIdx : Nat) (gain : BitVec 3) (addr : BitVec 8) (rate : Nat),
    ¬Live s →
    (addr.toNat < 0x48 ∨ 0x4B < addr.toNat ∨ 6 ≤ gain.toNat ∨ 8 ≤ rate) →
    ∃ what, exec (.init busIdx gain addr rate) s =
      .next { s with delivered := ⟨s.who, .err (.configurationError what)⟩ :: s.delivered }

/-- R147: the first RESET closes the handle, once; every later RESET does nothing; both complete `ok`, no register of the
device changes, and the construction values and `lastCfg` are kept. -/
def Obligations.ResetClosesHandle : Prop :=
  ∀ s : State, s.made = true → s.phase = .idle →
    (s.isOpen = true →
      exec .reset s = .next { s with
        isOpen := false, lock := .free, busLog := .call s.who s.busIdx s.addr .close :: s.busLog,
        delivered := ⟨s.who, .ok .none⟩ :: s.delivered }) ∧
    (s.isOpen = false →
      exec .reset s = .next { s with lock := .free, delivered := ⟨s.who, .ok .none⟩ :: s.delivered })

/-- 60_exceptions.md R222: what the block refuses: any command but INIT to no instance; any command but RESET and INIT to a
released instance; INIT to an existing instance that is open (after a release it makes a new one, log 13). (Reserved
opcodes: ReservedOpcodeRefused.) -/
def Obligations.RefusedOutsideLifecycle : Prop :=
  ∀ (i : Instr) (s : State),
    (i.op ≠ .init → s.made = false → exec i s = .refused .noInstance) ∧
    (i.op ≠ .init → i.op ≠ .reset → s.made = true → s.isOpen = false →
      exec i s = .refused .handleReleased) ∧
    (i.op = .init → s.made = true → s.isOpen = true → exec i s = .refused .instanceExists)

/-- R140 item 1: a sequencer command other than INIT is accepted only when `S.phase` is IDLE; the model is stuck otherwise
(Fault.notIdle), in states no run reaches. -/
def Obligations.NotAcceptedUnlessIdle : Prop :=
  ∀ (i : Instr) (s : State), isCodec i.op = false → i.op ≠ .init → s.made = true → (s.isOpen = true ∨ i.op = .reset) →
    s.phase ≠ .idle →
    exec i s = .fault (.notIdle s.phase)

/-! ### Bus commands -/

/-- R142, 20_memory.md R54: WRCFG whose write succeeds: the device's config register holds the word, `lastCfg` holds it, one
write of index 0x01 was made, and a single-shot word with OS 1 leaves one conversion more that can end (R65 (a)), and after
a continuous word the device free-runs, so that a conversion is always in progress (R65 (b)). Nothing else of the block
changes, and no other register of the device. The device is at level 1 of R66; what becomes of a conversion already in
progress is log 4. -/
def Obligations.WrcfgWritesConfig : Prop :=
  ∀ (s : State) (w : Word) (a : BusAnswer) (rest : List BusAnswer),
    Ready s → s.answers = a :: rest → Succeeds a →
    ∃ d : Device,
      exec (.wrcfg w) s = .next { s with
        lastCfg := some w, device := d, answers := rest,
        busLog := .call s.who s.busIdx s.addr (.write .config w) :: s.busLog,
        delivered := ⟨s.who, .ok .none⟩ :: s.delivered } ∧
      d.config = w ∧ d.cfgKnown = true ∧ d.writer = some s.who ∧ d.conversion = s.device.conversion ∧
      (a.convEnded = false ∨ NoneCanEnd s.device → d.convKnown = s.device.convKnown) ∧
      (a.convEnded = true → ¬NoneCanEnd s.device → d.convKnown = false) ∧
      LowKept s.device d ∧ HighKept s.device d ∧
      (w.getLsbD 15 = true → w.getLsbD 8 = true →
        d.convPending ≠ 0 ∧ (a.convEnded = false → d.convPending = s.device.unended + 1)) ∧
      (w.getLsbD 8 = false → d.freeRuns = true ∧ d.converting = true)

/-- R142, R216, R56: WRCFG whose write fails ends with BusError(0x01, write): `lastCfg` is unchanged, and the device's config
register holds the old word or the new one, and a single-shot word's trigger took effect or did not, each as the environment
decided (log 2, log 4, log 21); where it did not and the old word stayed, no conversion began and none was dropped. Nothing
is known of another register that was not known before. -/
def Obligations.WrcfgFailureKeepsShadow : Prop :=
  ∀ (s : State) (w : Word) (a : BusAnswer) (rest : List BusAnswer) (f : Failure),
    Ready s → s.answers = a :: rest → a.failure = some f →
    ∃ d : Device,
      exec (.wrcfg w) s = .next { s with
        device := d, answers := rest, busLog := .call s.who s.busIdx s.addr (.write .config w) :: s.busLog,
        delivered := ⟨s.who, .err (.busError .config .write)⟩ :: s.delivered } ∧
      (a.reached = true → d.config = w ∧ d.cfgKnown = true ∧ d.writer = some s.who ∧
        d.convPending ≤ s.device.unended + 1 ∧
        (a.convEnded = false →
          d.convPending = s.device.unended + (if w.getLsbD 8 && a.started then 1 else 0) ∧
          d.convKnown = s.device.convKnown) ∧
        (w.getLsbD 8 = false → d.freeRuns = true ∧ d.converting = true)) ∧
      (a.reached = false → d.config = s.device.config ∧ d.cfgKnown = s.device.cfgKnown ∧
        ((w.getLsbD 8 = false ∨ a.started = false) →
          d.writer = s.device.writer ∧ ConversionKept s.device d a.convEnded) ∧
        (w.getLsbD 8 = true → a.started = true → ConversionBegun s d a.convEnded)) ∧
      d.conversion = s.device.conversion ∧ (s.device.convKnown = false → d.convKnown = false) ∧
      LowKept s.device d ∧ HighKept s.device d

/-- R143, R32, R66: RDCFG whose read succeeds: one read of index 0x01; the word is the drawn status bit with bits 14 to 0 of
the last word that reached the device, or all drawn where none has since construction. Level 1 of R66 is the model's choice
(log 4). `lastCfg` and the device's registers do not change, nor does what is known of them, but for a conversion that ended
on its own (R59, R65). -/
def Obligations.RdcfgReturnsConfig : Prop :=
  ∀ (s : State) (a : BusAnswer) (rest : List BusAnswer),
    Ready s → s.answers = a :: rest → Succeeds a →
    ∃ (d : Device) (v : Word),
      exec .rdcfg s = .next { s with
        device := d, answers := rest, busLog := .call s.who s.busIdx s.addr (.read .config) :: s.busLog,
        delivered := ⟨s.who, .ok (.word v)⟩ :: s.delivered } ∧
      (s.device.cfgKnown = true →
        v.getLsbD 15 = a.word.getLsbD 15 ∧ v.extractLsb' 0 15 = s.device.config.extractLsb' 0 15) ∧
      (s.device.cfgKnown = false → v = a.word) ∧
      ConfigKept s.device d ∧ ConversionKept s.device d a.convEnded ∧ LowKept s.device d ∧ HighKept s.device d

/-- R144, R33: RDCONV whose read succeeds: one read of index 0x00; it triggers nothing. The word is the stored content where
it is known and no conversion ended, or none could end (single-shot, and every conversion that began has ended); it is a
draw where it is unknown, or where one ended that could (the device free-runs, or one that began had not ended);
afterwards it is the content (log 2, log 4). -/
def Obligations.RdconvReturnsConversion : Prop :=
  ∀ (s : State) (a : BusAnswer) (rest : List BusAnswer),
    Ready s → s.answers = a :: rest → Succeeds a →
    ∃ (d : Device) (v : Word),
      exec .rdconv s = .next { s with
        device := d, answers := rest, busLog := .call s.who s.busIdx s.addr (.read .conversion) :: s.busLog,
        delivered := ⟨s.who, .ok (.word v)⟩ :: s.delivered } ∧
      (s.device.convKnown = true →
        (a.convEnded = false ∨ NoneCanEnd s.device) → v = s.device.conversion) ∧
      (s.device.convKnown = false → v = a.word) ∧
      (a.convEnded = true → ¬NoneCanEnd s.device → v = a.word) ∧
      d.conversion = v ∧ d.convKnown = true ∧ ConfigKept s.device d ∧ LowKept s.device d ∧ HighKept s.device d ∧
      d.convPending ≤ s.device.convPending ∧
      (a.convEnded = false ∨ NoneCanEnd s.device → d.convPending = s.device.convPending)

/-- R144: two RDCONVs with no conversion between them return the same word: none ended, or none could end, because the
device is in single-shot mode and every conversion that began has ended (level 1 of R66, log 4). -/
def Obligations.RdconvRepeatsWithoutConversion : Prop :=
  ∀ (s : State) (a b : BusAnswer) (rest : List BusAnswer),
    Ready s → s.answers = a :: b :: rest → Succeeds a → Succeeds b →
    (b.convEnded = false ∨ NoneCanEnd s.device) →
    ∃ (t u : State) (v : Word),
      exec .rdconv s = .next t ∧ exec .rdconv t = .next u ∧
      t.delivered = ⟨s.who, .ok (.word v)⟩ :: s.delivered ∧ u.delivered = ⟨s.who, .ok (.word v)⟩ :: t.delivered

/-- R145: RDTHR whose two reads succeed, with nothing of the other agent between them: index 0x02 is read first, then 0x03,
and the result is the pair (low, high); a register read before keeps its word (R61, I2; level 1, log 4). `lastCfg`
and the config register do not change. -/
def Obligations.RdthrReturnsPair : Prop :=
  ∀ (s : State) (a b : BusAnswer) (rest : List BusAnswer),
    Ready s → GapQuiet s → s.answers = a :: b :: rest → Succeeds a → Succeeds b →
    ∃ (d : Device) (lo hi : Word) (gs : List Nat),
      exec .rdthr s = .next { s with
        device := d, answers := rest, gaps := gs,
        busLog := .call s.who s.busIdx s.addr (.read .highThreshold) ::
          .call s.who s.busIdx s.addr (.read .lowThreshold) :: s.busLog,
        delivered := ⟨s.who, .ok (.pair lo hi)⟩ :: s.delivered } ∧
      lo = (if s.device.lowKnown then s.device.lowThr else a.word) ∧
      hi = (if s.device.highKnown then s.device.highThr else b.word) ∧
      d.lowThr = lo ∧ d.lowKnown = true ∧ d.highThr = hi ∧ d.highKnown = true ∧
      ConfigKept s.device d ∧ ConversionKept s.device d (a.convEnded || b.convEnded)

/-- R145, R216, R140 item 5: if RDTHR's first read fails, the second is not made; if the second fails, the first word is
discarded; the result is the failing read's BusError. What a failed read would have read stays as it was (R56); the low
threshold that was read is the register's content (level 1, log 4). -/
def Obligations.RdthrFailureEndsCommand : Prop :=
  ∀ (s : State) (a b : BusAnswer) (rest : List BusAnswer) (f : Failure),
    Ready s → GapQuiet s → s.answers = a :: b :: rest →
    (a.failure = some f → ∃ d : Device,
      exec .rdthr s = .next { s with
        device := d, answers := b :: rest, busLog := .call s.who s.busIdx s.addr (.read .lowThreshold) :: s.busLog,
        delivered := ⟨s.who, .err (.busError .lowThreshold .read)⟩ :: s.delivered } ∧
      LowKept s.device d ∧ HighKept s.device d ∧ ConfigKept s.device d ∧ ConversionKept s.device d a.convEnded) ∧
    (Succeeds a → b.failure = some f → ∃ (d : Device) (gs : List Nat),
      exec .rdthr s = .next { s with
        device := d, answers := rest, gaps := gs,
        busLog := .call s.who s.busIdx s.addr (.read .highThreshold) ::
          .call s.who s.busIdx s.addr (.read .lowThreshold) :: s.busLog,
        delivered := ⟨s.who, .err (.busError .highThreshold .read)⟩ :: s.delivered } ∧
      d.lowThr = (if s.device.lowKnown then s.device.lowThr else a.word) ∧ d.lowKnown = true ∧
      HighKept s.device d ∧ ConfigKept s.device d ∧ ConversionKept s.device d (a.convEnded || b.convEnded))

/-- R146, R250: RDSS whose write and read succeed, with nothing of the other agent between them: the word written carries
the multiplexer code, the instance's gain and rate, MODE single-shot, the start bit and the disabled comparator; write, wait
and read happen in this order and nothing else; the word read is a new result, a draw, which a later read finds as the
content; no conversion is pending (log 4). The number of the word is that of the decided layout (log 11). -/
def Obligations.RdssWritesSettlesReads : Prop :=
  ∀ (s : State) (m : BitVec 3) (a b : BusAnswer) (rest : List BusAnswer),
    Ready s → GapQuiet s → s.answers = a :: b :: rest → Succeeds a → Succeeds b →
    ∃ (d : Device) (w : Word) (gs : List Nat),
      exec (.rdss m) s = .next { s with
        lastCfg := some w, device := d, answers := rest, gaps := gs,
        busLog := .call s.who s.busIdx s.addr (.read .conversion) :: .wait s.who s.rate ::
          .call s.who s.busIdx s.addr (.write .config w) :: s.busLog,
        delivered := ⟨s.who, .ok (.word b.word)⟩ :: s.delivered } ∧
      w.toNat = 0x8103 + m.toNat * 4096 + (gainCode s.gain).toNat * 512 + s.rate.toNat * 32 ∧
      d.config = w ∧ d.cfgKnown = true ∧ d.writer = some s.who ∧ d.conversion = b.word ∧ d.convKnown = true ∧
      d.convPending = 0 ∧ LowKept s.device d ∧ HighKept s.device d

/-- R146, R216: RDSS whose write fails: BusError, no wait, no read, `lastCfg` unchanged, the device's config register old or
new, and its trigger took effect or did not, each as the environment decided (log 21); RDSS whose read fails: BusError, `lastCfg` and the config
register hold the word written, and the conversion has ended with a result that no read has seen (log 4, log 11). -/
def Obligations.RdssFailureEndsCommand : Prop :=
  ∀ (s : State) (m : BitVec 3) (a b : BusAnswer) (rest : List BusAnswer) (f : Failure),
    Ready s → GapQuiet s → s.answers = a :: b :: rest →
    ∃ w : Word, w.toNat = 0x8103 + m.toNat * 4096 + (gainCode s.gain).toNat * 512 + s.rate.toNat * 32 ∧
    (a.failure = some f → ∃ d : Device,
      exec (.rdss m) s = .next { s with
        device := d, answers := b :: rest, busLog := .call s.who s.busIdx s.addr (.write .config w) :: s.busLog,
        delivered := ⟨s.who, .err (.busError .config .write)⟩ :: s.delivered } ∧
      (a.reached = true → d.config = w ∧ d.cfgKnown = true ∧ d.writer = some s.who ∧
        d.convPending ≤ s.device.unended + 1 ∧
        (a.convEnded = false →
          d.convPending = s.device.unended + (if a.started then 1 else 0) ∧ d.convKnown = s.device.convKnown)) ∧
      (a.reached = false → d.config = s.device.config ∧ d.cfgKnown = s.device.cfgKnown ∧
        (a.started = false → d.writer = s.device.writer ∧ ConversionKept s.device d a.convEnded) ∧
        (a.started = true → ConversionBegun s d a.convEnded)) ∧
      d.conversion = s.device.conversion ∧ (s.device.convKnown = false → d.convKnown = false) ∧
      LowKept s.device d ∧ HighKept s.device d) ∧
    (Succeeds a → b.failure = some f → ∃ (d : Device) (gs : List Nat),
      exec (.rdss m) s = .next { s with
        lastCfg := some w, device := d, answers := rest, gaps := gs,
        busLog := .call s.who s.busIdx s.addr (.read .conversion) :: .wait s.who s.rate ::
          .call s.who s.busIdx s.addr (.write .config w) :: s.busLog,
        delivered := ⟨s.who, .err (.busError .conversion .read)⟩ :: s.delivered } ∧
      d.config = w ∧ d.cfgKnown = true ∧ d.writer = some s.who ∧ d.conversion = s.device.conversion ∧
      d.convKnown = false ∧ d.convPending = 0 ∧ LowKept s.device d ∧ HighKept s.device d)

/-- R143, R144, R216: RDCFG and RDCONV whose read fails: BusError with the register's index, and no register of the device,
nor `lastCfg`, changes, nor what is known of a register, but for a conversion that ended on its own (R56, R65). -/
def Obligations.ReadFailureChangesNothing : Prop :=
  ∀ (s : State) (a : BusAnswer) (rest : List BusAnswer) (f : Failure),
    Ready s → s.answers = a :: rest → a.failure = some f →
    (∃ d : Device,
      exec .rdcfg s = .next { s with
        device := d, answers := rest, busLog := .call s.who s.busIdx s.addr (.read .config) :: s.busLog,
        delivered := ⟨s.who, .err (.busError .config .read)⟩ :: s.delivered } ∧
      ConfigKept s.device d ∧ ConversionKept s.device d a.convEnded ∧ LowKept s.device d ∧ HighKept s.device d) ∧
    (∃ d : Device,
      exec .rdconv s = .next { s with
        device := d, answers := rest, busLog := .call s.who s.busIdx s.addr (.read .conversion) :: s.busLog,
        delivered := ⟨s.who, .err (.busError .conversion .read)⟩ :: s.delivered } ∧
      ConfigKept s.device d ∧ ConversionKept s.device d a.convEnded ∧ LowKept s.device d ∧ HighKept s.device d)

/-- 41_sequencer.md R140 items 3, 5 and 8: every bus command of a ready instance ends, whatever the environment answers and
whatever the other agent does in its gap (log 2, log 3): IDLE, the lock free, and a response to the agent that issued it,
which is no ConfigurationError (the operands are checked before any I/O, R140 item 2). -/
def Obligations.BusCommandsAlwaysEnd : Prop :=
  ∀ (i : Instr) (s : State), usesBus i.op = true → Ready s →
    ∃ (t : State) (r : Response),
      exec i s = .next t ∧ t.phase = .idle ∧ t.lock = .free ∧ t.who = s.who ∧ t.delivered.head? = some ⟨s.who, r⟩ ∧
      (∀ what, r ≠ .err (.configurationError what))

/-- 20_memory.md R63, R66 level 1 (the model's choice, log 4): a config word that WRCFG wrote is what the next RDCFG reads,
its status bit apart. -/
def Obligations.RdcfgReadsBackWrcfg : Prop :=
  ∀ (s : State) (w : Word) (a b : BusAnswer) (rest : List BusAnswer),
    Ready s → s.answers = a :: b :: rest → Succeeds a → Succeeds b →
    ∃ (t u : State) (v : Word),
      exec (.wrcfg w) s = .next t ∧ exec .rdcfg t = .next u ∧ u.delivered = ⟨s.who, .ok (.word v)⟩ :: t.delivered ∧
      v.extractLsb' 0 15 = w.extractLsb' 0 15 ∧ u.lastCfg = some w

/-- 20_memory.md R60 item 3, 70_reset_and_hazards.md R252: under `perAccess` the other agent's WRCFG can fall between the
write and the read of an RDSS; then the device is configured by the other agent's word, and both agents get their
responses (log 3). -/
def Obligations.WrcfgFallsInsideRdss : Prop :=
  ∀ (s : State) (m : BitVec 3) (w : Word) (a b c : BusAnswer) (arest : List BusAnswer) (grest : List Nat)
    (prest : List Request),
    Ready s → s.scope = .perAccess → s.suspended = none →
    s.answers = a :: b :: c :: arest → Succeeds a → Succeeds b → Succeeds c →
    s.gaps = 1 :: grest → s.port = ⟨otherOf s.who, encode (.wrcfg w)⟩ :: prest →
    ∃ (t : State) (x r : Word),
      exec (.rdss m) s = .next t ∧ t.lastCfg = some w ∧ t.device.config = w ∧ t.port = prest ∧
      t.busLog = .call s.who s.busIdx s.addr (.read .conversion) ::
        .call (otherOf s.who) s.busIdx s.addr (.write .config w) :: .wait s.who s.rate ::
        .call s.who s.busIdx s.addr (.write .config x) :: s.busLog ∧
      t.delivered = ⟨s.who, .ok (.word r)⟩ :: ⟨otherOf s.who, .ok .none⟩ :: s.delivered

/-- 20_memory.md R60 item 3, 41_sequencer.md R145, R146: the other agent's RDTHR or RDSS that begins in the gap of an RDSS or
of an RDTHR makes its first access there, and is suspended before its second when the first command ends: no response of
its own is delivered yet (log 3). The words written are those of the decided layout (log 11). -/
def Obligations.CommandBegunInGapIsSuspended : Prop :=
  ∀ (s : State) (m k : BitVec 3) (a b c : BusAnswer) (arest : List BusAnswer) (grest : List Nat) (prest : List Request),
    Ready s → s.scope = .perAccess → s.suspended = none →
    s.answers = a :: b :: c :: arest → Succeeds a → Succeeds b → Succeeds c → s.gaps = 1 :: grest →
    (s.port = ⟨otherOf s.who, encode .rdthr⟩ :: prest →
      (∃ (t : State) (x lo r : Word),
        exec (.rdss m) s = .next t ∧ t.suspended = some ⟨otherOf s.who, .afterLow lo⟩ ∧
        lo = (if s.device.lowKnown then s.device.lowThr else b.word) ∧ t.port = prest ∧
        t.busLog = .call s.who s.busIdx s.addr (.read .conversion) ::
          .call (otherOf s.who) s.busIdx s.addr (.read .lowThreshold) :: .wait s.who s.rate ::
          .call s.who s.busIdx s.addr (.write .config x) :: s.busLog ∧
        t.delivered = ⟨s.who, .ok (.word r)⟩ :: s.delivered) ∧
      (∃ (t : State) (lo hi : Word),
        exec .rdthr s = .next t ∧ t.suspended = some ⟨otherOf s.who, .afterLow lo⟩ ∧
        lo = (if s.device.lowKnown then s.device.lowThr else a.word) ∧ t.port = prest ∧
        t.busLog = .call s.who s.busIdx s.addr (.read .highThreshold) ::
          .call (otherOf s.who) s.busIdx s.addr (.read .lowThreshold) ::
          .call s.who s.busIdx s.addr (.read .lowThreshold) :: s.busLog ∧
        t.delivered = ⟨s.who, .ok (.pair lo hi)⟩ :: s.delivered)) ∧
    (s.port = ⟨otherOf s.who, encode (.rdss k)⟩ :: prest →
      ∃ y : Word, y.toNat = 0x8103 + k.toNat * 4096 + (gainCode s.gain).toNat * 512 + s.rate.toNat * 32 ∧
      (∃ (t : State) (x r : Word),
        exec (.rdss m) s = .next t ∧ t.suspended = some ⟨otherOf s.who, .afterSettle⟩ ∧ t.port = prest ∧
        t.lastCfg = some y ∧ t.device.config = y ∧
        t.busLog = .call s.who s.busIdx s.addr (.read .conversion) :: .wait (otherOf s.who) s.rate ::
          .call (otherOf s.who) s.busIdx s.addr (.write .config y) :: .wait s.who s.rate ::
          .call s.who s.busIdx s.addr (.write .config x) :: s.busLog ∧
        t.delivered = ⟨s.who, .ok (.word r)⟩ :: s.delivered) ∧
      (∃ (t : State) (lo hi : Word),
        exec .rdthr s = .next t ∧ t.suspended = some ⟨otherOf s.who, .afterSettle⟩ ∧ t.port = prest ∧
        t.lastCfg = some y ∧ t.device.config = y ∧
        t.busLog = .call s.who s.busIdx s.addr (.read .highThreshold) :: .wait (otherOf s.who) s.rate ::
          .call (otherOf s.who) s.busIdx s.addr (.write .config y) ::
          .call s.who s.busIdx s.addr (.read .lowThreshold) :: s.busLog ∧
        t.delivered = ⟨s.who, .ok (.pair lo hi)⟩ :: s.delivered))

/-- R60 item 3, 41_sequencer.md R140 items 5 and 8, R145, R146: where a suspended command comes first, the step is its second
access and its response to its own agent: RDSS reads the conversion, a new result where no other word reached the device
or triggered a conversion (log 21) since its own, and a conversion could still end (R250, R252); RDTHR reads the high
threshold and answers the pair with the low word it holds; a failed read is BusError. The command is then no longer suspended, and nothing else changes but the free choices used (log 2, log 3,
log 4). Where every conversion ended before, the wait ends none, so RDSS finds the word that was read since (log 4). That
all this holds on a released handle too is the model's choice (log 15). -/
def Obligations.SuspendedCommandEnds : Prop :=
  ∀ (s : State) (p : Suspended) (a : BusAnswer) (rest : List BusAnswer),
    s.suspended = some p → suspendedFirst p s = true → s.answers = a :: rest →
    (p.rest = .afterSettle → Succeeds a → ∃ (d : Device) (v : Word),
      step s = .next { s with
        suspended := none, lock := .free, device := d, answers := rest, gaps := (dropGap s).gaps,
        draws := (dropGap s).draws, busLog := .call p.agent s.busIdx s.addr (.read .conversion) :: s.busLog,
        delivered := ⟨p.agent, .ok (.word v)⟩ :: s.delivered } ∧
      (s.device.writer = some p.agent → d.convPending = 0 ∧ (s.device.convPending ≠ 0 → v = a.word)) ∧
      (s.device.convKnown = false → v = a.word) ∧
      (a.convEnded = true → ¬NoneCanEnd s.device → v = a.word) ∧
      (s.device.convKnown = true → (s.device.writer ≠ some p.agent ∨ s.device.convPending = 0) →
        (a.convEnded = false ∨ NoneCanEnd s.device) → v = s.device.conversion) ∧
      d.conversion = v ∧ d.convKnown = true ∧ d.convPending ≤ s.device.convPending ∧
      (s.device.writer ≠ some p.agent → (a.convEnded = false ∨ NoneCanEnd s.device) →
        d.convPending = s.device.convPending) ∧
      ConfigKept s.device d ∧ LowKept s.device d ∧ HighKept s.device d) ∧
    (∀ lo, p.rest = .afterLow lo → Succeeds a → ∃ (d : Device) (hi : Word),
      step s = .next { s with
        suspended := none, lock := .free, device := d, answers := rest, gaps := (dropGap s).gaps,
        draws := (dropGap s).draws, busLog := .call p.agent s.busIdx s.addr (.read .highThreshold) :: s.busLog,
        delivered := ⟨p.agent, .ok (.pair lo hi)⟩ :: s.delivered } ∧
      hi = (if s.device.highKnown then s.device.highThr else a.word) ∧ d.highThr = hi ∧ d.highKnown = true ∧
      ConfigKept s.device d ∧ LowKept s.device d ∧ ConversionKept s.device d a.convEnded) ∧
    (∀ f, a.failure = some f → ∃ (d : Device) (i : RegIdx),
      step s = .next { s with
        suspended := none, lock := .free, device := d, answers := rest, gaps := (dropGap s).gaps,
        draws := (dropGap s).draws, busLog := .call p.agent s.busIdx s.addr (.read i) :: s.busLog,
        delivered := ⟨p.agent, .err (.busError i .read)⟩ :: s.delivered } ∧
      (p.rest = .afterSettle → i = .conversion ∧
        (s.device.writer = some p.agent → s.device.convPending ≠ 0 →
          d.conversion = s.device.conversion ∧ d.convPending = 0 ∧ d.convKnown = false) ∧
        (s.device.writer ≠ some p.agent ∨ s.device.convPending = 0 →
          ConversionKept s.device d a.convEnded)) ∧
      (∀ lo, p.rest = .afterLow lo → i = .highThreshold ∧ ConversionKept s.device d a.convEnded) ∧
      ConfigKept s.device d ∧ LowKept s.device d ∧ HighKept s.device d)

/-- 20_memory.md R65 (a), 93_implementation_defined.md I1 (level 1, the model's choice, log 4): one trigger is one result.
Where no other conversion is in progress, and the other agent's RDCONV falls into the gap of an RDSS: if the triggered
conversion ended before it, both read the same word; if it did not, RDSS reads its own result. -/
def Obligations.OneTriggerOneResult : Prop :=
  ∀ (s : State) (m : BitVec 3) (a b c : BusAnswer) (arest : List BusAnswer) (grest : List Nat) (prest : List Request),
    Ready s → s.scope = .perAccess → s.suspended = none →
    s.answers = a :: b :: c :: arest → Succeeds a → Succeeds b → Succeeds c → s.gaps = 1 :: grest →
    s.port = ⟨otherOf s.who, encode .rdconv⟩ :: prest →
    NoneCanEnd s.device →
    ∃ (t : State) (v r : Word),
      exec (.rdss m) s = .next t ∧ t.port = prest ∧ t.suspended = none ∧ t.device.convPending = 0 ∧
      t.delivered = ⟨s.who, .ok (.word r)⟩ :: ⟨otherOf s.who, .ok (.word v)⟩ :: s.delivered ∧
      (b.convEnded = true → v = b.word ∧ r = b.word) ∧
      (b.convEnded = false → r = c.word ∧ v = if s.device.convKnown then s.device.conversion else b.word)

/-- 30_encoding.md R107, R215: the other agent's ill-formed word is answered in a gap as at a step, with ConfigurationError to
its own agent, and the command in progress goes on (log 3). INIT is left out: it is refused where the instance is open. -/
def Obligations.IllFormedWordAnsweredInGap : Prop :=
  ∀ (s : State) (m : BitVec 3) (w : CmdWord) (op : Op) (what : Operand) (a b : BusAnswer) (arest : List BusAnswer)
    (grest : List Nat) (prest : List Request),
    Ready s → s.scope = .perAccess → s.suspended = none → s.answers = a :: b :: arest → Succeeds a → Succeeds b →
    s.gaps = 1 :: grest → s.port = ⟨otherOf s.who, w⟩ :: prest → decode w = .error (.illFormed op what) → op ≠ .init →
    ∃ t : State,
      exec (.rdss m) s = .next t ∧ t.port = prest ∧ t.suspended = none ∧
      t.delivered = ⟨s.who, .ok (.word b.word)⟩ :: ⟨otherOf s.who, .err (.configurationError what)⟩ :: s.delivered

/-- 20_memory.md R65 (b), 10_state.md R33: after a continuous word the device free-runs: each later read can return another
result, as often as the environment says that a conversion ended. -/
def Obligations.ContinuousModeReplacesResult : Prop :=
  ∀ (s : State) (w : Word) (a b c : BusAnswer) (rest : List BusAnswer),
    Ready s → s.answers = a :: b :: c :: rest → Succeeds a → Succeeds b → Succeeds c → w.getLsbD 8 = false →
    b.convEnded = true → c.convEnded = true →
    ∃ t u x : State,
      exec (.wrcfg w) s = .next t ∧ exec .rdconv t = .next u ∧ exec .rdconv u = .next x ∧
      u.delivered = ⟨s.who, .ok (.word b.word)⟩ :: t.delivered ∧ x.delivered = ⟨s.who, .ok (.word c.word)⟩ :: u.delivered

/-- R65, 91_not_in_source.md N8, 93_implementation_defined.md I9 (the model's choice, log 4): a counted conversion outlives
those of a device that free-runs, which may end without it; only those that the environment says ended are spent. -/
def Obligations.FreeRunSpendsNoOlderConversion : Prop :=
  ∀ (s : State) (a : BusAnswer) (rest : List BusAnswer),
    Ready s → s.answers = a :: rest → Succeeds a → s.device.freeRuns = true →
    ∃ t : State,
      exec .rdconv s = .next t ∧
      t.device.convPending = (if a.convEnded then s.device.convPending - a.spent else s.device.convPending) ∧
      t.device.freeRuns = true

/-- R65, 91_not_in_source.md N8, 93_implementation_defined.md I9 (the model's choice, log 4): where a trigger reaches a device
that free-ran, the conversion that was in progress and the triggered one may both end, so two reads may each find another
result, where no more than one ended before the first; then none is left, and a third read finds the second result
again. -/
def Obligations.RunningAndTriggeredBothMayEnd : Prop :=
  ∀ (s : State) (w : Word) (a b c e : BusAnswer) (rest : List BusAnswer),
    Ready s → s.answers = a :: b :: c :: e :: rest → Succeeds a → Succeeds b → Succeeds c → Succeeds e →
    s.device.cfgKnown = true → s.device.config.getLsbD 8 = false → s.device.convPending = 0 →
    w.getLsbD 15 = true → w.getLsbD 8 = true →
    a.convEnded = false → b.convEnded = true → b.spent ≤ 1 → c.convEnded = true → e.convEnded = true →
    ∃ t u x y : State,
      exec (.wrcfg w) s = .next t ∧ exec .rdconv t = .next u ∧ exec .rdconv u = .next x ∧ exec .rdconv x = .next y ∧
      u.delivered = ⟨s.who, .ok (.word b.word)⟩ :: t.delivered ∧
      x.delivered = ⟨s.who, .ok (.word c.word)⟩ :: u.delivered ∧
      y.delivered = ⟨s.who, .ok (.word c.word)⟩ :: x.delivered

/-! ### Whole-machine rules -/

/-- The invariant holds at reset. The values it rests on are the model's choice: of a state before INIT (log 1), and of a
device of which nothing is known and in which no conversion is pending (log 5), where the spec says unspecified. -/
def Obligations.InvariantAtReset : Prop := MachineInv State.reset

/-- 10_state.md R27, R28, 20_memory.md R64, 41_sequencer.md R151: every step from a state with the invariant gives one with
it: no command in progress and the lock free; no index but 0x01 ever written; what the block knows of the device hangs
together; a command is suspended only under `perAccess`. -/
def Obligations.InvariantKeptByStep : Prop :=
  ∀ s t : State, MachineInv s → step s = .next t → MachineInv t

/-- 10_state.md R20, 41_sequencer.md R151: no command but INIT, and no step that takes none, changes the construction values;
nor the parameter LOCK_SCOPE; nor whether the instance exists. -/
def Obligations.ConstructionValuesFixed : Prop :=
  (∀ (i : Instr) (s t : State), i.op ≠ .init → exec i s = .next t →
    t.addr = s.addr ∧ t.busIdx = s.busIdx ∧ t.gain = s.gain ∧ t.rate = s.rate ∧ t.scope = s.scope ∧ t.made = s.made) ∧
  (∀ s t : State, ¬TakesInit s → step s = .next t →
    t.addr = s.addr ∧ t.busIdx = s.busIdx ∧ t.gain = s.gain ∧ t.rate = s.rate ∧ t.scope = s.scope ∧ t.made = s.made)

/-- 10_state.md R26: no command but INIT, which makes a new instance, and no step that takes none, opens a released handle
again; and `close()` is called exactly when the handle goes from open to released. -/
def Obligations.HandleClosedOnce : Prop :=
  (∀ (i : Instr) (s t : State), i.op ≠ .init → exec i s = .next t →
    (s.isOpen = false → t.isOpen = false) ∧
    t.busLog.countP isClose = s.busLog.countP isClose + (if s.isOpen && !t.isOpen then 1 else 0)) ∧
  (∀ s t : State, ¬TakesInit s → step s = .next t →
    (s.isOpen = false → t.isOpen = false) ∧
    t.busLog.countP isClose = s.busLog.countP isClose + (if s.isOpen && !t.isOpen then 1 else 0))

/-- 10_state.md R21, R22, 20_memory.md R61: a command, and any step, adds its transactions to the one order of the bus and
takes none away, and each of them goes to the bus index and address of the instance it was made by. -/
def Obligations.TransactionsGoToOwnDevice : Prop :=
  (∀ (i : Instr) (s t : State), exec i s = .next t →
    ∃ new, t.busLog = new ++ s.busLog ∧ ∀ e ∈ new, onTarget s.busIdx s.addr e = true) ∧
  (∀ s t : State, step s = .next t →
    ∃ new, t.busLog = new ++ s.busLog ∧ ∀ e ∈ new, onTarget s.busIdx s.addr e = true)

/-- 10_state.md R37: no command looks at an earlier result: with any other list of earlier responses it does the same and
delivers the same. -/
def Obligations.NoStickyStatus : Prop :=
  ∀ (i : Instr) (s : State) (before : List Delivery),
    (∀ t, exec i s = .next t → ∃ new, t.delivered = new ++ s.delivered ∧
      exec i { s with delivered := before } = .next { t with delivered := new ++ before }) ∧
    (∀ f, exec i s = .fault f → exec i { s with delivered := before } = .fault f) ∧
    (∀ r, exec i s = .refused r → exec i { s with delivered := before } = .refused r)

/-- 10_state.md R25, 41_sequencer.md R151: no command makes a decision from `lastCfg`: with any other value of it the
command does the same, but for what `lastCfg` holds afterwards. -/
def Obligations.ShadowNeverRead : Prop :=
  ∀ (i : Instr) (s : State) (c : Option Word),
    (∀ t, exec i s = .next t → ∃ c', exec i { s with lastCfg := c } = .next { t with lastCfg := c' }) ∧
    (∀ f, exec i s = .fault f → exec i { s with lastCfg := c } = .fault f) ∧
    (∀ r, exec i s = .refused r → exec i { s with lastCfg := c } = .refused r)

/-! ### The callers -/

/-- 42_surrounding_software.md R184, R185: the hysteresis formula as written: a nonzero sample against 0 publishes; at
threshold 0 exactly a differing sample publishes; against a negative accepted value every sample publishes when the
threshold is positive. -/
def Obligations.HysteresisAsWritten : Prop :=
  (∀ (th : Rat) (r : Int), publishes th 0 r = true ↔ r ≠ 0) ∧
  (∀ v r : Int, publishes 0 v r = true ↔ r ≠ v) ∧
  (∀ (th : Rat) (v r : Int), 0 < th → v < 0 → publishes th v r = true)
end

