-- ==== Sys2Proof/Laws/Device.lean ====
section
/-! SUPPORT. What each device operation leaves unchanged, and what the two bits a config word is judged by are. -/

namespace Sys2Proof.Machine

variable (d : Device)

/-! ### The device's own step changes no register's stored word -/

@[simp] theorem Device.acts_conversion (e : BusAnswer) : (d.acts e).conversion = d.conversion := by
  unfold Device.acts; split <;> rfl
@[simp] theorem Device.acts_config (e : BusAnswer) : (d.acts e).config = d.config := by unfold Device.acts; split <;> rfl
@[simp] theorem Device.acts_lowThr (e : BusAnswer) : (d.acts e).lowThr = d.lowThr := by unfold Device.acts; split <;> rfl
@[simp] theorem Device.acts_highThr (e : BusAnswer) : (d.acts e).highThr = d.highThr := by unfold Device.acts; split <;> rfl
@[simp] theorem Device.acts_cfgKnown (e : BusAnswer) : (d.acts e).cfgKnown = d.cfgKnown := by unfold Device.acts; split <;> rfl
@[simp] theorem Device.acts_lowKnown (e : BusAnswer) : (d.acts e).lowKnown = d.lowKnown := by unfold Device.acts; split <;> rfl
@[simp] theorem Device.acts_highKnown (e : BusAnswer) : (d.acts e).highKnown = d.highKnown := by
  unfold Device.acts; split <;> rfl
@[simp] theorem Device.acts_writer (e : BusAnswer) : (d.acts e).writer = d.writer := by unfold Device.acts; split <;> rfl
/-- Where no conversion ended, the device did nothing. -/
theorem Device.acts_of_none (e : BusAnswer) (h : e.convEnded = false) : d.acts e = d := by simp [Device.acts, h]

/-- The device's own step begins no conversion. -/
theorem Device.acts_convPending_le (e : BusAnswer) : (d.acts e).convPending ≤ d.convPending := by
  unfold Device.acts; split <;> simp

/-- On a device that free-runs, only the counted conversions that the environment names are spent. -/
theorem Device.acts_convPending_freeRuns (e : BusAnswer) (h : d.freeRuns = true) :
    (d.acts e).convPending = if e.convEnded then d.convPending - e.spent else d.convPending := by
  cases he : e.convEnded <;> simp [Device.acts, Device.converting, Device.spentOf, h, he]

/-- A device in which no conversion is in progress does nothing. -/
theorem Device.acts_of_not_converting (e : BusAnswer) (h : d.converting = false) : d.acts e = d := by simp [Device.acts, h]

/-- What is known of the conversion register stays known unless a conversion ended. -/
theorem Device.acts_convKnown (e : BusAnswer) :
    (d.acts e).convKnown = if e.convEnded && d.converting then false else d.convKnown := by
  unfold Device.acts; split <;> rfl

/-- What a read of the conversion register returns: the draw where a conversion ended that could, or where nothing is known,
else the content. -/
theorem Device.acts_value_conversion (e : BusAnswer) (w : Word) :
    (d.acts e).value .conversion w =
      if e.convEnded && d.converting then w else if d.convKnown then d.conversion else w := by
  simp only [Device.value, Device.acts_convKnown, Device.acts_conversion]; split <;> simp_all

/-- The device's own step begins no conversion, under a new word neither. -/
theorem Device.acts_unended_le (e : BusAnswer) : (d.acts e).unended ≤ d.unended := by
  simp only [Device.unended, Device.freeRuns, Device.acts_cfgKnown, Device.acts_config]
  exact Nat.add_le_add_right (d.acts_convPending_le e) _

/-! ### The end of a settle wait changes no register's stored word -/

@[simp] theorem Device.settled_conversion (a : Agent) : (d.settled a).conversion = d.conversion := by
  unfold Device.settled; split <;> rfl
@[simp] theorem Device.settled_config (a : Agent) : (d.settled a).config = d.config := by
  unfold Device.settled; split <;> rfl
@[simp] theorem Device.settled_lowThr (a : Agent) : (d.settled a).lowThr = d.lowThr := by
  unfold Device.settled; split <;> rfl
@[simp] theorem Device.settled_highThr (a : Agent) : (d.settled a).highThr = d.highThr := by
  unfold Device.settled; split <;> rfl
@[simp] theorem Device.settled_cfgKnown (a : Agent) : (d.settled a).cfgKnown = d.cfgKnown := by
  unfold Device.settled; split <;> rfl
@[simp] theorem Device.settled_lowKnown (a : Agent) : (d.settled a).lowKnown = d.lowKnown := by
  unfold Device.settled; split <;> rfl
@[simp] theorem Device.settled_highKnown (a : Agent) : (d.settled a).highKnown = d.highKnown := by
  unfold Device.settled; split <;> rfl
@[simp] theorem Device.settled_writer (a : Agent) : (d.settled a).writer = d.writer := by
  unfold Device.settled; split <;> rfl

/-- A settle wait begins no conversion. -/
theorem Device.settled_convPending_le (a : Agent) : (d.settled a).convPending ≤ d.convPending := by
  unfold Device.settled; split <;> simp

/-- Where the last writer's settle wait ends with a conversion that could end, none is left, and the result is one that no
read has seen. -/
theorem Device.settled_own (a : Agent) (h : d.writer = some a) (hp : d.convPending ≠ 0) :
    d.settled a = { d with convPending := 0, convKnown := false } := by simp [Device.settled, h, hp]

/-- The last writer's settle wait leaves no conversion that can end. -/
theorem Device.settled_convPending_own (a : Agent) (h : d.writer = some a) : (d.settled a).convPending = 0 := by
  unfold Device.settled; split <;> simp_all

/-- Where every conversion has ended, a settle wait ends none. -/
theorem Device.settled_of_none_pending (a : Agent) (hp : d.convPending = 0) : d.settled a = d := by
  simp [Device.settled, hp]

/-- Where the other agent's word came last, a settle wait ends none. -/
theorem Device.settled_of_other (a : Agent) (h : d.writer ≠ some a) : d.settled a = d := by simp [Device.settled, h]

/-! ### A failed write changes no register but the config register, and no knowledge of another -/

@[simp] theorem Device.afterFailedWrite_conversion (a : Agent) (w : Word) (e : BusAnswer) :
    (d.afterFailedWrite a w e).conversion = d.conversion := by
  unfold Device.afterFailedWrite Device.triggered; split <;> [rfl; (split <;> rfl)]
@[simp] theorem Device.afterFailedWrite_convKnown (a : Agent) (w : Word) (e : BusAnswer) :
    (d.afterFailedWrite a w e).convKnown = d.convKnown := by
  unfold Device.afterFailedWrite Device.triggered; split <;> [rfl; (split <;> rfl)]
@[simp] theorem Device.afterFailedWrite_lowThr (a : Agent) (w : Word) (e : BusAnswer) :
    (d.afterFailedWrite a w e).lowThr = d.lowThr := by
  unfold Device.afterFailedWrite Device.triggered; split <;> [rfl; (split <;> rfl)]
@[simp] theorem Device.afterFailedWrite_lowKnown (a : Agent) (w : Word) (e : BusAnswer) :
    (d.afterFailedWrite a w e).lowKnown = d.lowKnown := by
  unfold Device.afterFailedWrite Device.triggered; split <;> [rfl; (split <;> rfl)]
@[simp] theorem Device.afterFailedWrite_highThr (a : Agent) (w : Word) (e : BusAnswer) :
    (d.afterFailedWrite a w e).highThr = d.highThr := by
  unfold Device.afterFailedWrite Device.triggered; split <;> [rfl; (split <;> rfl)]
@[simp] theorem Device.afterFailedWrite_highKnown (a : Agent) (w : Word) (e : BusAnswer) :
    (d.afterFailedWrite a w e).highKnown = d.highKnown := by
  unfold Device.afterFailedWrite Device.triggered; split <;> [rfl; (split <;> rfl)]

/-- A failed write leaves the new word where it reached the device, else the old one. -/
theorem Device.afterFailedWrite_config (a : Agent) (w : Word) (e : BusAnswer) :
    (d.afterFailedWrite a w e).config = (if e.reached then w else d.config) ∧
      (d.afterFailedWrite a w e).cfgKnown = (e.reached || d.cfgKnown) := by
  unfold Device.afterFailedWrite Device.triggered
  cases e.reached
  · simp only [Bool.false_eq_true, if_false, Bool.false_or]; split <;> exact ⟨rfl, rfl⟩
  · exact ⟨rfl, rfl⟩

/-! ### A read stores what it drew and nothing else -/

@[simp] theorem Device.seen_config (i : RegIdx) (w : Word) : (d.seen i w).config = d.config := by cases i <;> rfl
@[simp] theorem Device.seen_cfgKnown (i : RegIdx) (w : Word) : (d.seen i w).cfgKnown = d.cfgKnown := by cases i <;> rfl
@[simp] theorem Device.seen_convPending (i : RegIdx) (w : Word) : (d.seen i w).convPending = d.convPending := by
  cases i <;> rfl
@[simp] theorem Device.seen_writer (i : RegIdx) (w : Word) : (d.seen i w).writer = d.writer := by cases i <;> rfl

/-! ### The judged bits of a config word -/

/-- Field f of a word, as a number. -/
theorem extractField_toNat (w : Word) (f : Field) :
    (extractField w f).toNat = w.toNat / 2 ^ f.off % 2 ^ f.width := by
  have key : ∀ a b : Nat, a + b ≤ 16 → ((w &&& (BitVec.ofNat 16 (2 ^ b - 1) <<< a)) >>> a).toNat =
      w.toNat / 2 ^ a % 2 ^ b := by
    intro a b h
    apply Nat.eq_of_testBit_eq; intro i
    rw [Nat.testBit_mod_two_pow, Nat.testBit_div_two_pow]
    simp only [BitVec.toNat_ushiftRight, Nat.testBit_shiftRight, BitVec.toNat_and, Nat.testBit_and,
      BitVec.toNat_shiftLeft, Nat.testBit_mod_two_pow, Nat.testBit_shiftLeft, BitVec.toNat_ofNat,
      Nat.testBit_two_pow_sub_one]
    rw [Nat.add_comm i a]
    by_cases hi : i < b
    · simp [hi, show i < 16 by omega, show a + i < 16 by omega]
    · simp [hi]
  exact key f.off f.width (by cases f <;> decide)

/-- The start bit is bit 15 (30_encoding.md R85). -/
theorem startBit_eq (w : Word) : startBit w = w.getLsbD 15 := by
  have := extractField_toNat w .os
  simp only [startBit, Field.off, Field.width] at *
  rw [Bool.eq_iff_iff]
  simp only [beq_iff_eq, ← BitVec.toNat_inj, this, BitVec.getLsbD, Nat.testBit, Nat.shiftRight_eq_div_pow]
  simp

/-- The mode bit is bit 8, and 0 is continuous (R88). -/
theorem isContinuous_eq (w : Word) : isContinuous w = !w.getLsbD 8 := by
  have := extractField_toNat w .mode
  simp only [isContinuous, Field.off, Field.width] at *
  rw [Bool.eq_iff_iff]
  simp only [beq_iff_eq, ← BitVec.toNat_inj, this, BitVec.getLsbD, Nat.testBit, Nat.shiftRight_eq_div_pow]
  simp

end Sys2Proof.Machine
end

