-- ==== Sys2Proof/Laws/State.lean ====
section
/-! SUPPORT. One lemma per field per update of State, each true by unfolding the update, so that no later proof unfolds a
record update. -/

namespace Sys2Proof.Machine

variable (s : State)

@[simp] theorem State.setPhase_made (p : Phase) : (s.setPhase p).made = s.made := rfl
@[simp] theorem State.setPhase_addr (p : Phase) : (s.setPhase p).addr = s.addr := rfl
@[simp] theorem State.setPhase_busIdx (p : Phase) : (s.setPhase p).busIdx = s.busIdx := rfl
@[simp] theorem State.setPhase_gain (p : Phase) : (s.setPhase p).gain = s.gain := rfl
@[simp] theorem State.setPhase_rate (p : Phase) : (s.setPhase p).rate = s.rate := rfl
@[simp] theorem State.setPhase_lastCfg (p : Phase) : (s.setPhase p).lastCfg = s.lastCfg := rfl
@[simp] theorem State.setPhase_isOpen (p : Phase) : (s.setPhase p).isOpen = s.isOpen := rfl
@[simp] theorem State.setPhase_phase (p : Phase) : (s.setPhase p).phase = p := rfl
@[simp] theorem State.setPhase_lock (p : Phase) : (s.setPhase p).lock = s.lock := rfl
@[simp] theorem State.setPhase_device (p : Phase) : (s.setPhase p).device = s.device := rfl
@[simp] theorem State.setPhase_scope (p : Phase) : (s.setPhase p).scope = s.scope := rfl
@[simp] theorem State.setPhase_port (p : Phase) : (s.setPhase p).port = s.port := rfl
@[simp] theorem State.setPhase_who (p : Phase) : (s.setPhase p).who = s.who := rfl
@[simp] theorem State.setPhase_suspended (p : Phase) : (s.setPhase p).suspended = s.suspended := rfl
@[simp] theorem State.setPhase_delivered (p : Phase) : (s.setPhase p).delivered = s.delivered := rfl
@[simp] theorem State.setPhase_busLog (p : Phase) : (s.setPhase p).busLog = s.busLog := rfl
@[simp] theorem State.setPhase_answers (p : Phase) : (s.setPhase p).answers = s.answers := rfl
@[simp] theorem State.setPhase_gaps (p : Phase) : (s.setPhase p).gaps = s.gaps := rfl
@[simp] theorem State.setPhase_draws (p : Phase) : (s.setPhase p).draws = s.draws := rfl

@[simp] theorem State.setLock_made (l : Lock) : (s.setLock l).made = s.made := rfl
@[simp] theorem State.setLock_addr (l : Lock) : (s.setLock l).addr = s.addr := rfl
@[simp] theorem State.setLock_busIdx (l : Lock) : (s.setLock l).busIdx = s.busIdx := rfl
@[simp] theorem State.setLock_gain (l : Lock) : (s.setLock l).gain = s.gain := rfl
@[simp] theorem State.setLock_rate (l : Lock) : (s.setLock l).rate = s.rate := rfl
@[simp] theorem State.setLock_lastCfg (l : Lock) : (s.setLock l).lastCfg = s.lastCfg := rfl
@[simp] theorem State.setLock_isOpen (l : Lock) : (s.setLock l).isOpen = s.isOpen := rfl
@[simp] theorem State.setLock_phase (l : Lock) : (s.setLock l).phase = s.phase := rfl
@[simp] theorem State.setLock_lock (l : Lock) : (s.setLock l).lock = l := rfl
@[simp] theorem State.setLock_device (l : Lock) : (s.setLock l).device = s.device := rfl
@[simp] theorem State.setLock_scope (l : Lock) : (s.setLock l).scope = s.scope := rfl
@[simp] theorem State.setLock_port (l : Lock) : (s.setLock l).port = s.port := rfl
@[simp] theorem State.setLock_who (l : Lock) : (s.setLock l).who = s.who := rfl
@[simp] theorem State.setLock_suspended (l : Lock) : (s.setLock l).suspended = s.suspended := rfl
@[simp] theorem State.setLock_delivered (l : Lock) : (s.setLock l).delivered = s.delivered := rfl
@[simp] theorem State.setLock_busLog (l : Lock) : (s.setLock l).busLog = s.busLog := rfl
@[simp] theorem State.setLock_answers (l : Lock) : (s.setLock l).answers = s.answers := rfl
@[simp] theorem State.setLock_gaps (l : Lock) : (s.setLock l).gaps = s.gaps := rfl
@[simp] theorem State.setLock_draws (l : Lock) : (s.setLock l).draws = s.draws := rfl

@[simp] theorem State.setLastCfg_made (w : Word) : (s.setLastCfg w).made = s.made := rfl
@[simp] theorem State.setLastCfg_addr (w : Word) : (s.setLastCfg w).addr = s.addr := rfl
@[simp] theorem State.setLastCfg_busIdx (w : Word) : (s.setLastCfg w).busIdx = s.busIdx := rfl
@[simp] theorem State.setLastCfg_gain (w : Word) : (s.setLastCfg w).gain = s.gain := rfl
@[simp] theorem State.setLastCfg_rate (w : Word) : (s.setLastCfg w).rate = s.rate := rfl
@[simp] theorem State.setLastCfg_lastCfg (w : Word) : (s.setLastCfg w).lastCfg = some w := rfl
@[simp] theorem State.setLastCfg_isOpen (w : Word) : (s.setLastCfg w).isOpen = s.isOpen := rfl
@[simp] theorem State.setLastCfg_phase (w : Word) : (s.setLastCfg w).phase = s.phase := rfl
@[simp] theorem State.setLastCfg_lock (w : Word) : (s.setLastCfg w).lock = s.lock := rfl
@[simp] theorem State.setLastCfg_device (w : Word) : (s.setLastCfg w).device = s.device := rfl
@[simp] theorem State.setLastCfg_scope (w : Word) : (s.setLastCfg w).scope = s.scope := rfl
@[simp] theorem State.setLastCfg_port (w : Word) : (s.setLastCfg w).port = s.port := rfl
@[simp] theorem State.setLastCfg_who (w : Word) : (s.setLastCfg w).who = s.who := rfl
@[simp] theorem State.setLastCfg_suspended (w : Word) : (s.setLastCfg w).suspended = s.suspended := rfl
@[simp] theorem State.setLastCfg_delivered (w : Word) : (s.setLastCfg w).delivered = s.delivered := rfl
@[simp] theorem State.setLastCfg_busLog (w : Word) : (s.setLastCfg w).busLog = s.busLog := rfl
@[simp] theorem State.setLastCfg_answers (w : Word) : (s.setLastCfg w).answers = s.answers := rfl
@[simp] theorem State.setLastCfg_gaps (w : Word) : (s.setLastCfg w).gaps = s.gaps := rfl
@[simp] theorem State.setLastCfg_draws (w : Word) : (s.setLastCfg w).draws = s.draws := rfl

@[simp] theorem State.setDevice_made (d : Device) : (s.setDevice d).made = s.made := rfl
@[simp] theorem State.setDevice_addr (d : Device) : (s.setDevice d).addr = s.addr := rfl
@[simp] theorem State.setDevice_busIdx (d : Device) : (s.setDevice d).busIdx = s.busIdx := rfl
@[simp] theorem State.setDevice_gain (d : Device) : (s.setDevice d).gain = s.gain := rfl
@[simp] theorem State.setDevice_rate (d : Device) : (s.setDevice d).rate = s.rate := rfl
@[simp] theorem State.setDevice_lastCfg (d : Device) : (s.setDevice d).lastCfg = s.lastCfg := rfl
@[simp] theorem State.setDevice_isOpen (d : Device) : (s.setDevice d).isOpen = s.isOpen := rfl
@[simp] theorem State.setDevice_phase (d : Device) : (s.setDevice d).phase = s.phase := rfl
@[simp] theorem State.setDevice_lock (d : Device) : (s.setDevice d).lock = s.lock := rfl
@[simp] theorem State.setDevice_device (d : Device) : (s.setDevice d).device = d := rfl
@[simp] theorem State.setDevice_scope (d : Device) : (s.setDevice d).scope = s.scope := rfl
@[simp] theorem State.setDevice_port (d : Device) : (s.setDevice d).port = s.port := rfl
@[simp] theorem State.setDevice_who (d : Device) : (s.setDevice d).who = s.who := rfl
@[simp] theorem State.setDevice_suspended (d : Device) : (s.setDevice d).suspended = s.suspended := rfl
@[simp] theorem State.setDevice_delivered (d : Device) : (s.setDevice d).delivered = s.delivered := rfl
@[simp] theorem State.setDevice_busLog (d : Device) : (s.setDevice d).busLog = s.busLog := rfl
@[simp] theorem State.setDevice_answers (d : Device) : (s.setDevice d).answers = s.answers := rfl
@[simp] theorem State.setDevice_gaps (d : Device) : (s.setDevice d).gaps = s.gaps := rfl
@[simp] theorem State.setDevice_draws (d : Device) : (s.setDevice d).draws = s.draws := rfl

@[simp] theorem State.logEvent_made (e : BusEvent) : (s.logEvent e).made = s.made := rfl
@[simp] theorem State.logEvent_addr (e : BusEvent) : (s.logEvent e).addr = s.addr := rfl
@[simp] theorem State.logEvent_busIdx (e : BusEvent) : (s.logEvent e).busIdx = s.busIdx := rfl
@[simp] theorem State.logEvent_gain (e : BusEvent) : (s.logEvent e).gain = s.gain := rfl
@[simp] theorem State.logEvent_rate (e : BusEvent) : (s.logEvent e).rate = s.rate := rfl
@[simp] theorem State.logEvent_lastCfg (e : BusEvent) : (s.logEvent e).lastCfg = s.lastCfg := rfl
@[simp] theorem State.logEvent_isOpen (e : BusEvent) : (s.logEvent e).isOpen = s.isOpen := rfl
@[simp] theorem State.logEvent_phase (e : BusEvent) : (s.logEvent e).phase = s.phase := rfl
@[simp] theorem State.logEvent_lock (e : BusEvent) : (s.logEvent e).lock = s.lock := rfl
@[simp] theorem State.logEvent_device (e : BusEvent) : (s.logEvent e).device = s.device := rfl
@[simp] theorem State.logEvent_scope (e : BusEvent) : (s.logEvent e).scope = s.scope := rfl
@[simp] theorem State.logEvent_port (e : BusEvent) : (s.logEvent e).port = s.port := rfl
@[simp] theorem State.logEvent_who (e : BusEvent) : (s.logEvent e).who = s.who := rfl
@[simp] theorem State.logEvent_suspended (e : BusEvent) : (s.logEvent e).suspended = s.suspended := rfl
@[simp] theorem State.logEvent_delivered (e : BusEvent) : (s.logEvent e).delivered = s.delivered := rfl
@[simp] theorem State.logEvent_busLog (e : BusEvent) : (s.logEvent e).busLog = e :: s.busLog := rfl
@[simp] theorem State.logEvent_answers (e : BusEvent) : (s.logEvent e).answers = s.answers := rfl
@[simp] theorem State.logEvent_gaps (e : BusEvent) : (s.logEvent e).gaps = s.gaps := rfl
@[simp] theorem State.logEvent_draws (e : BusEvent) : (s.logEvent e).draws = s.draws := rfl

@[simp] theorem State.respond_made (r : Response) : (s.respond r).made = s.made := rfl
@[simp] theorem State.respond_addr (r : Response) : (s.respond r).addr = s.addr := rfl
@[simp] theorem State.respond_busIdx (r : Response) : (s.respond r).busIdx = s.busIdx := rfl
@[simp] theorem State.respond_gain (r : Response) : (s.respond r).gain = s.gain := rfl
@[simp] theorem State.respond_rate (r : Response) : (s.respond r).rate = s.rate := rfl
@[simp] theorem State.respond_lastCfg (r : Response) : (s.respond r).lastCfg = s.lastCfg := rfl
@[simp] theorem State.respond_isOpen (r : Response) : (s.respond r).isOpen = s.isOpen := rfl
@[simp] theorem State.respond_phase (r : Response) : (s.respond r).phase = s.phase := rfl
@[simp] theorem State.respond_lock (r : Response) : (s.respond r).lock = s.lock := rfl
@[simp] theorem State.respond_device (r : Response) : (s.respond r).device = s.device := rfl
@[simp] theorem State.respond_scope (r : Response) : (s.respond r).scope = s.scope := rfl
@[simp] theorem State.respond_port (r : Response) : (s.respond r).port = s.port := rfl
@[simp] theorem State.respond_who (r : Response) : (s.respond r).who = s.who := rfl
@[simp] theorem State.respond_suspended (r : Response) : (s.respond r).suspended = s.suspended := rfl
@[simp] theorem State.respond_delivered (r : Response) : (s.respond r).delivered = ⟨s.who, r⟩ :: s.delivered := rfl
@[simp] theorem State.respond_busLog (r : Response) : (s.respond r).busLog = s.busLog := rfl
@[simp] theorem State.respond_answers (r : Response) : (s.respond r).answers = s.answers := rfl
@[simp] theorem State.respond_gaps (r : Response) : (s.respond r).gaps = s.gaps := rfl
@[simp] theorem State.respond_draws (r : Response) : (s.respond r).draws = s.draws := rfl

@[simp] theorem dropAnswer_made : (dropAnswer s).made = s.made := rfl
@[simp] theorem dropAnswer_addr : (dropAnswer s).addr = s.addr := rfl
@[simp] theorem dropAnswer_busIdx : (dropAnswer s).busIdx = s.busIdx := rfl
@[simp] theorem dropAnswer_gain : (dropAnswer s).gain = s.gain := rfl
@[simp] theorem dropAnswer_rate : (dropAnswer s).rate = s.rate := rfl
@[simp] theorem dropAnswer_lastCfg : (dropAnswer s).lastCfg = s.lastCfg := rfl
@[simp] theorem dropAnswer_isOpen : (dropAnswer s).isOpen = s.isOpen := rfl
@[simp] theorem dropAnswer_phase : (dropAnswer s).phase = s.phase := rfl
@[simp] theorem dropAnswer_lock : (dropAnswer s).lock = s.lock := rfl
@[simp] theorem dropAnswer_device : (dropAnswer s).device = s.device := rfl
@[simp] theorem dropAnswer_scope : (dropAnswer s).scope = s.scope := rfl
@[simp] theorem dropAnswer_port : (dropAnswer s).port = s.port := rfl
@[simp] theorem dropAnswer_who : (dropAnswer s).who = s.who := rfl
@[simp] theorem dropAnswer_suspended : (dropAnswer s).suspended = s.suspended := rfl
@[simp] theorem dropAnswer_delivered : (dropAnswer s).delivered = s.delivered := rfl
@[simp] theorem dropAnswer_busLog : (dropAnswer s).busLog = s.busLog := rfl
@[simp] theorem dropAnswer_gaps : (dropAnswer s).gaps = s.gaps := rfl

@[simp] theorem dropGap_made : (dropGap s).made = s.made := rfl
@[simp] theorem dropGap_addr : (dropGap s).addr = s.addr := rfl
@[simp] theorem dropGap_busIdx : (dropGap s).busIdx = s.busIdx := rfl
@[simp] theorem dropGap_gain : (dropGap s).gain = s.gain := rfl
@[simp] theorem dropGap_rate : (dropGap s).rate = s.rate := rfl
@[simp] theorem dropGap_lastCfg : (dropGap s).lastCfg = s.lastCfg := rfl
@[simp] theorem dropGap_isOpen : (dropGap s).isOpen = s.isOpen := rfl
@[simp] theorem dropGap_phase : (dropGap s).phase = s.phase := rfl
@[simp] theorem dropGap_lock : (dropGap s).lock = s.lock := rfl
@[simp] theorem dropGap_device : (dropGap s).device = s.device := rfl
@[simp] theorem dropGap_scope : (dropGap s).scope = s.scope := rfl
@[simp] theorem dropGap_port : (dropGap s).port = s.port := rfl
@[simp] theorem dropGap_who : (dropGap s).who = s.who := rfl
@[simp] theorem dropGap_suspended : (dropGap s).suspended = s.suspended := rfl
@[simp] theorem dropGap_delivered : (dropGap s).delivered = s.delivered := rfl
@[simp] theorem dropGap_busLog : (dropGap s).busLog = s.busLog := rfl
@[simp] theorem dropGap_answers : (dropGap s).answers = s.answers := rfl

end Sys2Proof.Machine
end

