-- ==== Sys2Proof/Laws/Ops.lean ====
section
/-! SUPPORT. One lemma per shared operation that says everything it can do, as an equation of the next state. -/

namespace Sys2Proof.Machine

variable (s : State)

/-! ### Draws do not look at what the operations change -/

@[simp] theorem nextAnswer_setPhase (p : Phase) : nextAnswer (s.setPhase p) = nextAnswer s := rfl
@[simp] theorem nextAnswer_setLock (l : Lock) : nextAnswer (s.setLock l) = nextAnswer s := rfl
@[simp] theorem nextAnswer_setDevice (d : Device) : nextAnswer (s.setDevice d) = nextAnswer s := rfl
@[simp] theorem nextGap_setPhase (p : Phase) : nextGap (s.setPhase p) = nextGap s := rfl
@[simp] theorem nextGap_setDevice (d : Device) : nextGap (s.setDevice d) = nextGap s := rfl

theorem nextAnswer_cons {a : BusAnswer} {rest : List BusAnswer} (h : s.answers = a :: rest) : nextAnswer s = a := by
  simp [nextAnswer, h]

theorem dropAnswer_cons {a : BusAnswer} {rest : List BusAnswer} (h : s.answers = a :: rest) :
    dropAnswer s = { s with answers := rest } := by
  simp [dropAnswer, h]

theorem nextGap_cons {n : Nat} {rest : List Nat} (h : s.gaps = n :: rest) : nextGap s = n := by
  simp [nextGap, h]

theorem dropGap_cons {n : Nat} {rest : List Nat} (h : s.gaps = n :: rest) : dropGap s = { s with gaps := rest } := by
  simp [dropGap, h]

theorem dropAnswer_setLock (l : Lock) : dropAnswer (s.setLock l) = (dropAnswer s).setLock l := rfl

theorem dropAnswer_setPhase (p : Phase) : dropAnswer (s.setPhase p) = (dropAnswer s).setPhase p := rfl

/-! ### The lock -/

/-- The lock as an access of the agent leaves it. -/
def lockAfterAccess (sc : LockScope) (a : Agent) : Lock :=
  match sc with
  | .perAccess => .free
  | .perCommand => .held a

/-- The end of an access releases the agent's holding under `perAccess` and keeps it under `perCommand`. -/
theorem releaseAccess_held (h : s.lock = .held s.who) :
    releaseAccess s = { s with lock := lockAfterAccess s.scope s.who } := by
  obtain ⟨made, addr, busIdx, gain, rate, lastCfg, isOpen, phase, lock, device, scope⟩ := s
  cases scope <;> simp_all [releaseAccess, lockAfterAccess, release, State.setLock]

/-! ### One access -/

/-- A successful write: the device has accepted the word and `S.lastCfg` holds it. -/
theorem memWrite_ok (w : Word) (h : (nextAnswer s).failure = none) :
    memWrite w s =
      { dropAnswer s with
        lock := lockAfterAccess s.scope s.who
        lastCfg := some w
        device := (s.device.acts (nextAnswer s)).accept s.who w (starts w (nextAnswer s))
        busLog := busEvent s s.who (.write .config w) :: s.busLog } := by
  unfold memWrite acquire busWrite
  simp only [nextAnswer_setLock, h, dropAnswer_setLock, State.setLock_who]
  rw [releaseAccess_held _ (by simp)]
  simp [State.setLock, State.setDevice, State.setLastCfg, State.logEvent, busEvent]

/-- A failed write: the device holds the old word or the new one, and `S.lastCfg` is unchanged. -/
theorem memWrite_failed (w : Word) {f : Failure} (h : (nextAnswer s).failure = some f) :
    memWrite w s =
      { dropAnswer s with
        lock := lockAfterAccess s.scope s.who
        device := (s.device.acts (nextAnswer s)).afterFailedWrite s.who w (nextAnswer s)
        busLog := busEvent s s.who (.write .config w) :: s.busLog } := by
  unfold memWrite acquire busWrite
  simp only [nextAnswer_setLock, h, dropAnswer_setLock, State.setLock_who]
  rw [releaseAccess_held _ (by simp)]
  simp [State.setLock, State.setDevice, State.logEvent, busEvent]

theorem memWriteError_ok (h : (nextAnswer s).failure = none) : memWriteError s = none := by
  simp [memWriteError, acquire, h]

theorem memWriteError_failed {f : Failure} (h : (nextAnswer s).failure = some f) :
    memWriteError s = some (.busError .config .write) := by
  simp [memWriteError, acquire, h]

/-- A successful read: what it drew is known. -/
theorem memRead_ok (i : RegIdx) (h : (nextAnswer s).failure = none) :
    memRead i s =
      { dropAnswer s with
        lock := lockAfterAccess s.scope s.who
        device := (s.device.acts (nextAnswer s)).seen i (nextAnswer s).word
        busLog := busEvent s s.who (.read i) :: s.busLog } := by
  unfold memRead acquire busRead
  simp only [nextAnswer_setLock, h, dropAnswer_setLock, State.setLock_who]
  rw [releaseAccess_held _ (by simp)]
  simp [State.setLock, State.setDevice, State.logEvent, busEvent]

/-- A failed read: of the device nothing changed but what it did on its own. -/
theorem memRead_failed (i : RegIdx) {f : Failure} (h : (nextAnswer s).failure = some f) :
    memRead i s =
      { dropAnswer s with
        lock := lockAfterAccess s.scope s.who
        device := s.device.acts (nextAnswer s)
        busLog := busEvent s s.who (.read i) :: s.busLog } := by
  unfold memRead acquire busRead
  simp only [nextAnswer_setLock, h, dropAnswer_setLock, State.setLock_who]
  rw [releaseAccess_held _ (by simp)]
  simp [State.setLock, State.setDevice, State.logEvent, busEvent]

theorem memReadResult_ok (i : RegIdx) (h : (nextAnswer s).failure = none) :
    memReadResult i s = .ok ((s.device.acts (nextAnswer s)).value i (nextAnswer s).word) := by
  simp [memReadResult, acquire, h, busReadValue]

theorem memReadResult_failed (i : RegIdx) {f : Failure} (h : (nextAnswer s).failure = some f) :
    memReadResult i s = .error (.busError i .read) := by
  simp [memReadResult, acquire, h]

/-! ### The end of a command -/

/-- A command that holds the lock, or finds it free, leaves it free and the phase IDLE. -/
theorem endCommand_eq (h : s.lock = .held s.who ∨ s.lock = .free) :
    endCommand s = { s with phase := .idle, lock := .free } := by
  rcases h with h | h <;> simp [endCommand, release, State.setPhase, State.setLock, h]

theorem lockAfterAccess_cases (sc : LockScope) (a : Agent) :
    lockAfterAccess sc a = .held a ∨ lockAfterAccess sc a = .free := by
  cases sc <;> simp [lockAfterAccess]

/-- The last read of a command, when it succeeds. -/
theorem finishRead_ok (p : Phase) (i : RegIdx) (result : Word → Payload) (h : (nextAnswer s).failure = none) :
    finishRead p i result s =
      { dropAnswer s with
        phase := .idle
        lock := .free
        device := (s.device.acts (nextAnswer s)).seen i (nextAnswer s).word
        busLog := busEvent s s.who (.read i) :: s.busLog
        delivered := ⟨s.who, .ok (result ((s.device.acts (nextAnswer s)).value i (nextAnswer s).word))⟩ ::
          s.delivered } := by
  unfold finishRead
  simp only [memReadResult_ok (s.setPhase p) i (by simpa using h), memRead_ok (s.setPhase p) i (by simpa using h), complete]
  rw [endCommand_eq _ (by simpa using lockAfterAccess_cases _ _)]
  rfl

/-- The last read of a command, when it fails. -/
theorem finishRead_failed (p : Phase) (i : RegIdx) (result : Word → Payload) {f : Failure}
    (h : (nextAnswer s).failure = some f) :
    finishRead p i result s =
      { dropAnswer s with
        phase := .idle
        lock := .free
        device := s.device.acts (nextAnswer s)
        busLog := busEvent s s.who (.read i) :: s.busLog
        delivered := ⟨s.who, .err (.busError i .read)⟩ :: s.delivered } := by
  unfold finishRead
  simp only [memReadResult_failed (s.setPhase p) i (by simpa using h), memRead_failed (s.setPhase p) i (by simpa using h),
    raiseError]
  rw [endCommand_eq _ (by simpa using lockAfterAccess_cases _ _)]
  rfl

/-- WRCFG's steps, when the write succeeds. -/
theorem wrcfgSteps_ok (w : Word) (h : (nextAnswer s).failure = none) :
    wrcfgSteps w s =
      { dropAnswer s with
        phase := .idle
        lock := .free
        lastCfg := some w
        device := (s.device.acts (nextAnswer s)).accept s.who w (starts w (nextAnswer s))
        busLog := busEvent s s.who (.write .config w) :: s.busLog
        delivered := ⟨s.who, .ok .none⟩ :: s.delivered } := by
  unfold wrcfgSteps
  simp only [memWriteError_ok (s.setPhase .wrCfg) (by simpa using h), memWrite_ok (s.setPhase .wrCfg) w (by simpa using h),
    complete]
  rw [endCommand_eq _ (by simpa using lockAfterAccess_cases _ _)]
  rfl

/-- WRCFG's steps, when the write fails. -/
theorem wrcfgSteps_failed (w : Word) {f : Failure} (h : (nextAnswer s).failure = some f) :
    wrcfgSteps w s =
      { dropAnswer s with
        phase := .idle
        lock := .free
        device := (s.device.acts (nextAnswer s)).afterFailedWrite s.who w (nextAnswer s)
        busLog := busEvent s s.who (.write .config w) :: s.busLog
        delivered := ⟨s.who, .err (.busError .config .write)⟩ :: s.delivered } := by
  unfold wrcfgSteps
  simp only [memWriteError_failed (s.setPhase .wrCfg) (by simpa using h),
    memWrite_failed (s.setPhase .wrCfg) w (by simpa using h), raiseError]
  rw [endCommand_eq _ (by simpa using lockAfterAccess_cases _ _)]
  rfl

end Sys2Proof.Machine
end

