-- ==== Sys2Proof/Laws/Agents.lean ====
section
/-! SUPPORT. What acceptance, the first access of a two-access command, a gap and a step can do. -/

namespace Sys2Proof.Machine

variable (s : State)

/-! ### Acceptance -/

/-- A command that needs a live instance gives a next state exactly where one exists and what follows does. -/
theorem needLive_eq_next {go : Host.Outcome State Fault Refusal} {t : State} :
    needLive s go = .next t ↔ Live s ∧ go = .next t := by
  unfold needLive Live
  cases s.made <;> cases s.isOpen <;> simp

theorem needIdle_eq_next {body : State → State} {t : State} :
    needIdle s body = .next t ↔ s.phase = .idle ∧ t = body s := by
  unfold needIdle
  split <;> simp_all [eq_comm]

/-- A codec command gives a next state exactly where a live instance exists. -/
theorem needCodec_eq_next {body : State → State} {t : State} :
    needCodec s body = .next t ↔ Live s ∧ t = body s := by
  unfold needCodec
  rw [needLive_eq_next, Host.Outcome.next.injEq, eq_comm (a := t)]

/-- A sequencer command other than INIT and RESET gives a next state exactly where it is accepted. -/
theorem needOpen_eq_next {body : State → State} {t : State} :
    needOpen s body = .next t ↔ Live s ∧ s.phase = .idle ∧ t = body s := by
  simp [needOpen, needLive_eq_next, needIdle_eq_next]

theorem needMade_eq_next {body : State → State} {t : State} :
    needMade s body = .next t ↔ s.made = true ∧ s.phase = .idle ∧ t = body s := by
  unfold needMade
  split <;> simp_all [needIdle_eq_next]

theorem needNoInstance_eq_next {body : State → State} {t : State} :
    needNoInstance s body = .next t ↔ (s.made && s.isOpen) = false ∧ t = body s := by
  unfold needNoInstance
  constructor
  · intro h
    split at h
    · cases h
    · cases h; simp_all
  · rintro ⟨h1, rfl⟩; simp [h1]

/-! ### What the device's own step leaves, in the terms of the statements -/

/-- A conversion may be in progress exactly where one can end. -/
theorem converting_eq_false (d : Device) : d.converting = false ↔ NoneCanEnd d := by
  cases h : d.cfgKnown <;> cases h' : d.config.getLsbD 8 <;>
    simp_all [NoneCanEnd, Device.converting, Device.freeRuns, isContinuous_eq]

theorem acts_configKept (d : Device) (a : BusAnswer) : ConfigKept d (d.acts a) := by simp [ConfigKept]

theorem acts_lowKept (d : Device) (a : BusAnswer) : LowKept d (d.acts a) := by simp [LowKept]

theorem acts_highKept (d : Device) (a : BusAnswer) : HighKept d (d.acts a) := by simp [HighKept]

theorem acts_conversionKept (d : Device) (a : BusAnswer) : ConversionKept d (d.acts a) a.convEnded := by
  refine ⟨by simp, Device.acts_convPending_le d a, fun h => ?_, fun he hn => ?_⟩
  · rcases h with h | h
    · rw [Device.acts_of_none d a h]; exact ⟨rfl, rfl⟩
    · rw [Device.acts_of_not_converting d a ((converting_eq_false d).2 h)]; exact ⟨rfl, rfl⟩
  · have : d.converting = true := by simpa using mt (converting_eq_false d).1 hn
    simp [Device.acts_convKnown, he, this]

/-- What two transactions leave of the conversion register, where neither reads nor writes it and the config register
stays. -/
theorem conversionKept_trans {d e f : Device} {x y : Bool} (h : ConversionKept d e x) (k : ConversionKept e f y)
    (hc : ConfigKept d e) : ConversionKept d f (x || y) := by
  obtain ⟨h1, h2, h3, h4⟩ := h
  obtain ⟨k1, k2, k3, k4⟩ := k
  obtain ⟨c1, c2, -⟩ := hc
  have he : NoneCanEnd d → NoneCanEnd e := fun hn => by
    rw [NoneCanEnd, c1, c2, (h3 (.inr hn)).1]; exact hn
  refine ⟨k1.trans h1, k2.trans h2, fun hx => ?_, fun hx hn => ?_⟩
  · have a := h3 (hx.imp (fun hx => by simp_all) id)
    have b := k3 (hx.imp (fun hx => by simp_all) he)
    exact ⟨b.1.trans a.1, b.2.trans a.2⟩
  · cases hxx : x
    · subst hxx
      have a := h3 (.inl rfl)
      refine k4 (by simpa using hx) (fun hn' => hn ?_)
      rw [NoneCanEnd, ← c1, ← c2, ← a.1]; exact hn'
    · have a := h4 hxx hn
      cases hyy : y
      · exact (k3 (.inl hyy)).2.trans a
      · by_cases hne : NoneCanEnd e
        · exact (k3 (.inr hne)).2.trans a
        · exact k4 hyy hne

/-! ### The first access of RDTHR and of RDSS -/

/-- RDTHR's first read, when it succeeds: the high threshold remains to be read. -/
theorem rdthrFirst_ok (h : (nextAnswer s).failure = none) :
    rdthrRest s = some (.afterLow ((s.device.acts (nextAnswer s)).value .lowThreshold (nextAnswer s).word)) ∧
    rdthrFirst s =
      { dropAnswer s with
        phase := .rdLo
        lock := lockAfterAccess s.scope s.who
        device := (s.device.acts (nextAnswer s)).seen .lowThreshold (nextAnswer s).word
        busLog := busEvent s s.who (.read .lowThreshold) :: s.busLog } := by
  have hr := memReadResult_ok (s.setPhase .rdLo) .lowThreshold (by simpa using h)
  have hm := memRead_ok (s.setPhase .rdLo) .lowThreshold (by simpa using h)
  constructor
  · simp only [rdthrRest, hr]; rfl
  · simp only [rdthrFirst, hr, hm]; rfl

/-- RDTHR's first read, when it fails: nothing remains. -/
theorem rdthrFirst_failed {f : Failure} (h : (nextAnswer s).failure = some f) :
    rdthrRest s = none ∧
    rdthrFirst s =
      { dropAnswer s with
        phase := .idle
        lock := .free
        device := s.device.acts (nextAnswer s)
        busLog := busEvent s s.who (.read .lowThreshold) :: s.busLog
        delivered := ⟨s.who, .err (.busError .lowThreshold .read)⟩ :: s.delivered } := by
  have hr := memReadResult_failed (s.setPhase .rdLo) .lowThreshold (by simpa using h)
  have hm := memRead_failed (s.setPhase .rdLo) .lowThreshold (by simpa using h)
  constructor
  · simp only [rdthrRest, hr]
  · simp only [rdthrFirst, hr, hm, raiseError]
    rw [endCommand_eq _ (by simpa using lockAfterAccess_cases _ _)]
    rfl

/-- The word RDSS writes has OS 1 and MODE single-shot. -/
theorem singleShotWord_bits (m : BitVec 3) :
    (singleShotWord m s).getLsbD 15 = true ∧ (singleShotWord m s).getLsbD 8 = true := by
  have key : ∀ m g r : BitVec 3, (encodeWord m g 1 r).getLsbD 15 = true ∧ (encodeWord m g 1 r).getLsbD 8 = true := by
    decide
  exact key _ _ _

/-- RDSS's successful write leaves one conversion more that can end. -/
theorem accept_singleShot_convPending (d : Device) (m : BitVec 3) (ans : BusAnswer) (h : ans.failure = none) :
    (d.accept s.who (singleShotWord m s) (starts (singleShotWord m s) ans)).convPending = d.unended + 1 := by
  simp [Device.accept, starts, h, isContinuous_eq, startBit_eq, singleShotWord_bits]

/-- After RDSS's successful write, with no word and no conversion's end in between, its settle wait leaves none that can end,
and a result that no read has seen. -/
theorem settled_singleShot (d : Device) (m : BitVec 3) (ans : BusAnswer) (h : ans.failure = none) :
    (d.accept s.who (singleShotWord m s) (starts (singleShotWord m s) ans)).settled s.who =
      { d.accept s.who (singleShotWord m s) (starts (singleShotWord m s) ans) with
        convPending := 0, convKnown := false } :=
  Device.settled_own _ _ rfl (by rw [accept_singleShot_convPending s d m ans h]; omega)

/-- RDSS's write, when it succeeds: the settle wait has begun and the conversion remains to be read. -/
theorem rdssFirst_ok (m : BitVec 3) (h : (nextAnswer s).failure = none) :
    rdssRest s = some .afterSettle ∧
    rdssFirst m s =
      { dropAnswer s with
        phase := .settle
        lock := lockAfterAccess s.scope s.who
        lastCfg := some (singleShotWord m s)
        device := (s.device.acts (nextAnswer s)).accept s.who (singleShotWord m s)
          (starts (singleShotWord m s) (nextAnswer s))
        busLog := .wait s.who s.rate :: busEvent s s.who (.write .config (singleShotWord m s)) :: s.busLog } := by
  have hr := memWriteError_ok (s.setPhase .wrCfg) (by simpa using h)
  have hm := memWrite_ok (s.setPhase .wrCfg) (singleShotWord m s) (by simpa using h)
  constructor
  · simp only [rdssRest, hr]
  · simp only [rdssFirst, hr, hm]; rfl

/-- RDSS's write, when it fails: nothing remains. -/
theorem rdssFirst_failed (m : BitVec 3) {f : Failure} (h : (nextAnswer s).failure = some f) :
    rdssRest s = none ∧
    rdssFirst m s =
      { dropAnswer s with
        phase := .idle
        lock := .free
        device := (s.device.acts (nextAnswer s)).afterFailedWrite s.who (singleShotWord m s) (nextAnswer s)
        busLog := busEvent s s.who (.write .config (singleShotWord m s)) :: s.busLog
        delivered := ⟨s.who, .err (.busError .config .write)⟩ :: s.delivered } := by
  have hr := memWriteError_failed (s.setPhase .wrCfg) (by simpa using h)
  have hm := memWrite_failed (s.setPhase .wrCfg) (singleShotWord m s) (by simpa using h)
  constructor
  · simp only [rdssRest, hr]
  · simp only [rdssFirst, hr, hm, raiseError]
    rw [endCommand_eq _ (by simpa using lockAfterAccess_cases _ _)]
    rfl

/-! ### Gaps and moves of the other agent -/

/-- Under `perCommand` nothing happens in a gap. -/
theorem gap_perCommand (h : s.scope = .perCommand) : gap s = s := by simp [gap, h]

/-- Under `perAccess` a gap is as many moves of the other agent as its number says. -/
theorem gap_perAccess (h : s.scope = .perAccess) : gap s = otherMoves (nextGap s) (dropGap s) := by simp [gap, h]

/-- In a gap with number 0 nothing happens but that the number is used. -/
theorem gap_zero {rest : List Nat} (h : s.gaps = 0 :: rest) :
    gap s = s ∨ gap s = { s with gaps := rest } := by
  by_cases hs : s.scope = .perAccess
  · right; rw [gap_perAccess s hs, nextGap_cons s h, dropGap_cons s h]; rfl
  · left; unfold gap; split <;> simp_all

/-- A word that begins in a gap is a command that begins there, or an ill-formed word that is answered. -/
theorem beginWord_cases {d : Decoded} {t : State} (h : beginWord d s = some t) :
    (∃ i, d = .instr i ∧ beginCommand i s = some t) ∨ ∃ what, t = raiseConfiguration what s := by
  unfold beginWord at h
  split at h
  · exact .inl ⟨_, rfl, h⟩
  · unfold beginIllFormed at h
    split at h <;> cases h
    exact .inr ⟨_, rfl⟩
  · cases h

/-- A move of the other agent is nothing, the rest of its suspended command, or its next word at the port. -/
theorem otherMove_cases :
    otherMove s = s ∨
    (∃ p, s.suspended = some p ∧ p.agent = otherOf s.who ∧ otherMove s = resume p s) ∨
    (∃ w rest t, s.suspended = none ∧ takeFirst (otherOf s.who) s.port = some (w, rest) ∧
      beginWord (decode w) { s with who := otherOf s.who, phase := .idle, port := rest } = some t ∧
      otherMove s = { t with who := s.who, phase := s.phase }) := by
  unfold otherMove
  split
  · next p hp =>
    split
    · next h => exact .inr (.inl ⟨p, hp, h, rfl⟩)
    · exact .inl rfl
  · next hn =>
    split
    · exact .inl rfl
    · next w rest ht =>
      split
      · next t hb => exact .inr (.inr ⟨w, rest, t, hn, ht, hb, rfl⟩)
      · exact .inl rfl

/-- What holds before moves of the other agent and survives each of them holds after them. -/
theorem otherMoves_induct {P : State → Prop} (hm : ∀ s, P s → P (otherMove s)) (n : Nat) (h : P s) :
    P (otherMoves n s) := by
  induction n generalizing s with
  | zero => exact h
  | succ n ih => exact ih _ (hm s h)

/-- What holds before a gap, survives the use of its number and survives each move holds after the gap. -/
theorem gap_induct {P : State → Prop} (hd : ∀ s, P s → P (dropGap s)) (hm : ∀ s, P s → P (otherMove s)) (h : P s) :
    P (gap s) := by
  unfold gap
  split
  · exact otherMoves_induct _ hm _ (hd _ h)
  · exact h

end Sys2Proof.Machine
end

