-- ==== Sys2Proof/Laws/Codec.lean ====
section
/-! SUPPORT. What packing a command word keeps: the fields read back, and the must-be-zero bits stay zero. -/

namespace Sys2Proof

/-- The selector of a field names it (30_encoding.md R105). -/
theorem fieldOfSelector_selector (f : Field) : fieldOfSelector f.selector = some f := by cases f <;> rfl
/-- The code of an operation selects it (R103). -/
theorem opOfCode_code (o : Op) : opOfCode o.code = some o := by cases o <;> rfl
@[simp] theorem opField_packWord (op : Op) (f : BitVec 4) (v : BitVec 3) (a : Word) : opField (packWord op f v a) = op.code := by
  unfold opField packWord; ext i hi
  have : i < 4 := hi
  interval_cases i <;> simp
@[simp] theorem fselField_packWord (op : Op) (f : BitVec 4) (v : BitVec 3) (a : Word) : fselField (packWord op f v a) = f := by
  unfold fselField packWord; ext i hi
  interval_cases i <;> simp
@[simp] theorem valField_packWord (op : Op) (f : BitVec 4) (v : BitVec 3) (a : Word) : valField (packWord op f v a) = v := by
  unfold valField packWord; ext i hi
  interval_cases i <;> simp
@[simp] theorem argField_packWord (op : Op) (f : BitVec 4) (v : BitVec 3) (a : Word) : argField (packWord op f v a) = a := by
  unfold argField packWord; ext i hi
  have h1 : i < 28 := by omega
  have h2 : i < 24 := by omega
  have h3 : i < 16 := by omega
  simp [h1, h2, h3]; omega
/-- A packed word keeps a row's must-be-zero bits zero when each of its parts does (R101, R104). -/
theorem mustBeZero_packWord (op : Op) (f : BitVec 4) (v : BitVec 3) (a : Word)
    (hf : op.mustBeZero.extractLsb' 24 4 &&& f = 0)
    (hv : op.mustBeZero.extractLsb' 16 3 &&& v = 0)
    (ha : op.mustBeZero.extractLsb' 0 16 &&& a = 0) :
    packWord op f v a &&& op.mustBeZero = 0 := by
  have e1 : ∀ j, j < 4 → (op.mustBeZero.getLsbD (24+j) && f.getLsbD j) = false := fun j hj => by
    have := congrArg (fun x => x.getLsbD j) hf; simpa [hj] using this
  have e2 : ∀ j, j < 3 → (op.mustBeZero.getLsbD (16+j) && v.getLsbD j) = false := fun j hj => by
    have := congrArg (fun x => x.getLsbD j) hv; simpa [hj] using this
  have e3 : ∀ j, j < 16 → (op.mustBeZero.getLsbD j && a.getLsbD j) = false := fun j hj => by
    have := congrArg (fun x => x.getLsbD j) ha; simpa [hj] using this
  have e4 : ∀ j, j < 4 → op.mustBeZero.getLsbD (28+j) = false := fun j hj => by
    interval_cases j <;> cases op <;> rfl
  unfold packWord
  apply BitVec.eq_of_getLsbD_eq; intro i hi
  rcases Nat.lt_or_ge i 16 with h | h
  · have := e3 i h
    simp [show i<28 by omega, show i < 24 by omega, h, hi] 
    simpa [Bool.and_comm, h, hi, Bool.and_eq_false_iff, imp_iff_not_or] using this
  rcases Nat.lt_or_ge i 19 with h' | h'
  · have := e2 (i-16) (by omega)
    rw [show 16 + (i-16) = i by omega] at this
    have ha : a.getLsbD i = false := BitVec.getLsbD_of_ge a i h
    simp [show i<28 by omega, show i < 24 by omega, show ¬ i < 16 by omega, hi, ha]
    simpa [Bool.and_comm, h, hi, Bool.and_eq_false_iff, imp_iff_not_or] using this
  have ha : a.getLsbD i = false := BitVec.getLsbD_of_ge a i h
  have hv : v.getLsbD (i-16) = false := BitVec.getLsbD_of_ge v _ (by omega)
  rcases Nat.lt_or_ge i 24 with h2 | h2
  · simp [show i<28 by omega, h2, show ¬ i < 16 by omega, hi, ha, hv]
  rcases Nat.lt_or_ge i 28 with h2' | h2'
  · have := e1 (i-24) (by omega)
    rw [show 24 + (i-24) = i by omega] at this
    simp [show i<28 by omega, show ¬ i < 24 by omega, show ¬ i < 16 by omega, hi, ha, hv]
    simpa [Bool.and_comm, h, hi, Bool.and_eq_false_iff, imp_iff_not_or] using this
  · have := e4 (i-28) (by omega)
    rw [show 28 + (i-28) = i by omega] at this
    simp [this]

/-- A packed word selects the operation it was packed for. -/
theorem opOfCode_packWord (op : Op) (fsel : BitVec 4) (val : BitVec 3) (arg : Word) :
    opOfCode (opField (packWord op fsel val arg)) = some op := by
  rw [opField_packWord, opOfCode_code]

/-- Such a word is decoded as its own operation. -/
theorem decode_packWord (op : Op) (f : BitVec 4) (v : BitVec 3) (a : Word)
    (hf : op.mustBeZero.extractLsb' 24 4 &&& f = 0)
    (hv : op.mustBeZero.extractLsb' 16 3 &&& v = 0)
    (ha : op.mustBeZero.extractLsb' 0 16 &&& a = 0) :
    decode (packWord op f v a) = decodeOperands op (packWord op f v a) := by
  unfold decode; rw [opField_packWord, opOfCode_code]; simp [mustBeZero_packWord op f v a hf hv ha]

end Sys2Proof
end

