-- ==== Sys2Proof/Laws/Moves.lean ====
section
/-! SUPPORT. Every command but INIT is a chain of a few elementary moves, in any state, through any gap: what each of them
keeps, every command keeps. -/

namespace Sys2Proof.Machine

/-- An elementary move of the machine inside a command. -/
inductive Move : State → State → Prop where
  | phase (s : State) (p : Phase) : Move s (s.setPhase p)
  | lock (s : State) (l : Lock) : Move s (s.setLock l)
  | answered (s : State) : Move s (dropAnswer s)
  | gapUsed (s : State) : Move s (dropGap s)
  | write (s : State) (a : Agent) (w : Word) (ans : BusAnswer) : Move s (busWrite a w ans s)
  | read (s : State) (a : Agent) (i : RegIdx) (ans : BusAnswer) : Move s (busRead a i ans s)
  | wait (s : State) (a : Agent) : Move s (s.logEvent (.wait a s.rate))
  | waited (s : State) : Move s (endWait s)
  | close (s : State) (a : Agent) (h : s.isOpen = true) : Move s (busClose a s)
  | ok (s : State) (p : Payload) : Move s (s.respond (.ok p))
  | busError (s : State) (i : RegIdx) (dir : Dir) : Move s (s.respond (.err (.busError i dir)))
  | configurationError (s : State) (what : Operand) : Move s (s.respond (.err (.configurationError what)))
  | agent (s : State) (a : Agent) : Move s { s with who := a }
  | taken (s : State) (rest : List Request) : Move s { s with port := rest }
  | suspend (s : State) (p : Option Suspended) : Move s { s with suspended := p }

/-- A chain of elementary moves. -/
abbrev Moves : State → State → Prop := Relation.ReflTransGen Move

/-- One elementary move is a chain. -/
theorem Moves.one {s t : State} (h : Move s t) : Moves s t := .single h

/-- A chain whose moves each keep a reflexive and transitive relation keeps it. -/
theorem Moves.keeps {R : State → State → Prop} (hr : ∀ s, R s s) (ht : ∀ s t u, R s t → R t u → R s u)
    (hm : ∀ s t, Move s t → R s t) {s t : State} (h : Moves s t) : R s t := by
  induction h with
  | refl => exact hr s
  | tail _ h ih => exact ht _ _ _ ih (hm _ _ h)

theorem release_moves (s : State) : Moves s (release s) := by
  unfold release; split
  · exact .one (.lock s .free)
  · exact .refl

theorem releaseAccess_moves (s : State) : Moves s (releaseAccess s) := by
  unfold releaseAccess; split
  · exact release_moves s
  · exact .refl

theorem endCommand_moves (s : State) : Moves s (endCommand s) :=
  (Moves.one (.phase s .idle)).trans (release_moves _)

theorem complete_moves (p : Payload) (s : State) : Moves s (complete p s) := (endCommand_moves s).tail (.ok _ p)

theorem raiseBusError_moves (i : RegIdx) (dir : Dir) (s : State) : Moves s (raiseError (.busError i dir) s) :=
  (endCommand_moves s).tail (.busError _ i dir)

theorem memWrite_moves (w : Word) (s : State) : Moves s (memWrite w s) :=
  (((Moves.one (.lock s (.held s.who))).tail (.answered _)).tail (.write _ s.who w (nextAnswer (acquire s)))).trans
    (releaseAccess_moves _)

theorem memRead_moves (i : RegIdx) (s : State) : Moves s (memRead i s) :=
  (((Moves.one (.lock s (.held s.who))).tail (.answered _)).tail (.read _ s.who i (nextAnswer (acquire s)))).trans
    (releaseAccess_moves _)

/-- A read's only error is BusError. -/
theorem memReadResult_error {i : RegIdx} {s : State} {e : ErrKind} (h : memReadResult i s = .error e) :
    e = .busError i .read := by
  simp only [memReadResult] at h; split at h <;> cases h; rfl

/-- A write's only error is BusError. -/
theorem memWriteError_some {s : State} {e : ErrKind} (h : memWriteError s = some e) : e = .busError .config .write := by
  simp only [memWriteError] at h; split at h <;> cases h; rfl

theorem finishRead_moves (p : Phase) (i : RegIdx) (result : Word → Payload) (s : State) :
    Moves s (finishRead p i result s) := by
  simp only [finishRead]
  split
  · exact ((Moves.one (.phase s p)).trans (memRead_moves i _)).trans (complete_moves _ _)
  · next e h =>
    rw [memReadResult_error h]
    exact ((Moves.one (.phase s p)).trans (memRead_moves i _)).trans (raiseBusError_moves _ _ _)

theorem wrcfgSteps_moves (w : Word) (s : State) : Moves s (wrcfgSteps w s) := by
  simp only [wrcfgSteps]
  split
  · exact ((Moves.one (.phase s .wrCfg)).trans (memWrite_moves w _)).trans (complete_moves _ _)
  · next e h =>
    rw [memWriteError_some h]
    exact ((Moves.one (.phase s .wrCfg)).trans (memWrite_moves w _)).trans (raiseBusError_moves _ _ _)

theorem rdthrFirst_moves (s : State) : Moves s (rdthrFirst s) := by
  simp only [rdthrFirst]
  split
  · exact (Moves.one (.phase s .rdLo)).trans (memRead_moves _ _)
  · next e h =>
    rw [memReadResult_error h]
    exact ((Moves.one (.phase s .rdLo)).trans (memRead_moves _ _)).trans (raiseBusError_moves _ _ _)

theorem rdssFirst_moves (m : BitVec 3) (s : State) : Moves s (rdssFirst m s) := by
  simp only [rdssFirst]
  split
  · exact (((Moves.one (.phase s .wrCfg)).trans (memWrite_moves _ _)).tail (.phase _ .settle)).tail (.wait _ _)
  · next e h =>
    rw [memWriteError_some h]
    exact ((Moves.one (.phase s .wrCfg)).trans (memWrite_moves _ _)).trans (raiseBusError_moves _ _ _)

theorem finishRest_moves (r : Rest) (s : State) : Moves s (finishRest r s) := by
  cases r with
  | afterSettle => exact (Moves.one (.waited s)).trans (finishRead_moves _ _ _ _)
  | afterLow lo => exact finishRead_moves _ _ _ _

theorem resetSteps_moves (s : State) : Moves s (resetSteps s) := by
  simp only [resetSteps]
  split
  · next h =>
    exact (((Moves.one (.lock s (.held s.who))).tail (.phase _ .closing)).tail (.close _ _ h)).trans (complete_moves _ _)
  · exact (Moves.one (.lock s (.held s.who))).trans (complete_moves _ _)

theorem codecSteps_moves (s : State) :
    (∀ mux pga mode dr, Moves s (encodeSteps mux pga mode dr s)) ∧ (∀ w, Moves s (decodeSteps w s)) ∧
    (∀ f w, Moves s (getfSteps f w s)) ∧ (∀ f v w, Moves s (setfSteps f v w s)) := by
  refine ⟨fun mux pga mode dr => ?_, fun w => .one (.ok _ _), fun f w => .one (.ok _ _), fun f v w => ?_⟩
  · unfold encodeSteps; split
    · exact .one (.ok _ _)
    · exact .one (.configurationError _ _)
  · unfold setfSteps; split
    · exact .one (.ok _ _)
    · exact .one (.configurationError _ _)

theorem resume_moves (p : Suspended) (s : State) : Moves s (resume p s) :=
  ((((Moves.one (.agent s p.agent)).tail (.suspend _ none)).trans (finishRest_moves p.rest _)).tail
    (.agent _ s.who)).tail (.phase _ s.phase)

theorem beginCommand_moves {i : Instr} {s t : State} (h : beginCommand i s = some t) : Moves s t := by
  cases i with
  | encode mux pga mode dr => simp only [beginCommand] at h; split at h <;> cases h; exact (codecSteps_moves s).1 _ _ _ _
  | decode w => simp only [beginCommand] at h; split at h <;> cases h; exact (codecSteps_moves s).2.1 _
  | getf f w => simp only [beginCommand] at h; split at h <;> cases h; exact (codecSteps_moves s).2.2.1 _ _
  | setf f v w => simp only [beginCommand] at h; split at h <;> cases h; exact (codecSteps_moves s).2.2.2 _ _ _
  | wrcfg w => simp only [beginCommand] at h; split at h <;> cases h; exact wrcfgSteps_moves w s
  | rdcfg => simp only [beginCommand] at h; split at h <;> cases h; exact finishRead_moves _ _ _ s
  | rdconv => simp only [beginCommand] at h; split at h <;> cases h; exact finishRead_moves _ _ _ s
  | rdthr =>
    simp only [beginCommand] at h; split at h <;> cases h
    exact (rdthrFirst_moves s).tail (.suspend _ _)
  | rdss m =>
    simp only [beginCommand] at h; split at h <;> cases h
    exact (rdssFirst_moves m s).tail (.suspend _ _)
  | reset => cases h; exact resetSteps_moves s
  | init _ _ _ _ => cases h

theorem beginWord_moves {d : Decoded} {s t : State} (h : beginWord d s = some t) : Moves s t := by
  rcases beginWord_cases s h with ⟨i, -, hb⟩ | ⟨what, rfl⟩
  · exact beginCommand_moves hb
  · exact .one (.configurationError s what)

theorem otherMove_moves (s : State) : Moves s (otherMove s) := by
  rcases otherMove_cases s with h | ⟨p, _, _, h⟩ | ⟨w, rest, t, _, _, hb, h⟩
  · rw [h]
  · rw [h]; exact resume_moves p s
  · rw [h]
    exact (((((Moves.one (.agent s (otherOf s.who))).tail (.phase _ .idle)).tail (.taken _ rest)).trans
      (beginWord_moves hb)).tail (.agent _ s.who)).tail (.phase _ s.phase)

theorem gap_moves (s : State) : Moves s (gap s) :=
  gap_induct (P := fun t => Moves s t) s (fun _ h => h.tail (.gapUsed _)) (fun _ h => h.trans (otherMove_moves _)) .refl

theorem throughGap_moves (r : Option Rest) (s : State) : Moves s (throughGap r s) := by
  cases r with
  | none => exact .refl
  | some r => exact (gap_moves s).trans (finishRest_moves r _)

/-- Everything a command other than INIT can do is a chain of elementary moves. -/
theorem exec_moves {i : Instr} {s t : State} (hi : i.op ≠ .init) (h : exec i s = .next t) : Moves s t := by
  cases i with
  | encode mux pga mode dr => obtain ⟨-, rfl⟩ := (needCodec_eq_next s).1 h; exact (codecSteps_moves s).1 _ _ _ _
  | decode w => obtain ⟨-, rfl⟩ := (needCodec_eq_next s).1 h; exact (codecSteps_moves s).2.1 _
  | getf f w => obtain ⟨-, rfl⟩ := (needCodec_eq_next s).1 h; exact (codecSteps_moves s).2.2.1 _ _
  | setf f v w => obtain ⟨-, rfl⟩ := (needCodec_eq_next s).1 h; exact (codecSteps_moves s).2.2.2 _ _ _
  | wrcfg w => obtain ⟨-, -, rfl⟩ := (needOpen_eq_next s).1 h; exact wrcfgSteps_moves w s
  | rdcfg => obtain ⟨-, -, rfl⟩ := (needOpen_eq_next s).1 h; exact finishRead_moves _ _ _ s
  | rdconv => obtain ⟨-, -, rfl⟩ := (needOpen_eq_next s).1 h; exact finishRead_moves _ _ _ s
  | rdthr =>
    simp only [exec, execRdthr, needOpen_eq_next] at h
    obtain ⟨-, -, rfl⟩ := h
    exact (rdthrFirst_moves s).trans (throughGap_moves _ _)
  | rdss m =>
    simp only [exec, execRdss, needOpen_eq_next] at h
    obtain ⟨-, -, rfl⟩ := h
    exact (rdssFirst_moves m s).trans (throughGap_moves _ _)
  | reset => obtain ⟨-, -, rfl⟩ := (needMade_eq_next s).1 h; exact resetSteps_moves s
  | init _ _ _ _ => exact absurd rfl hi

end Sys2Proof.Machine
end

