-- ==== Sys2Proof/Laws/Ends.lean ====
section
/-! SUPPORT. How each part of a command leaves the lock, the phase, the agent, the suspended command and LOCK_SCOPE; what
INIT can do; what one transaction can change. -/

namespace Sys2Proof.Machine

variable (s : State)

/-! ### One transaction -/

/-- A write changes the device, `S.lastCfg` and the bus log only. -/
theorem busWrite_frame (a : Agent) (w : Word) (ans : BusAnswer) :
    ∃ d l, busWrite a w ans s =
      { s with device := d, lastCfg := l, busLog := busEvent s a (.write .config w) :: s.busLog } := by
  unfold busWrite; split
  · exact ⟨_, _, rfl⟩
  · exact ⟨_, s.lastCfg, rfl⟩

/-- A read changes the device and the bus log only. -/
theorem busRead_frame (a : Agent) (i : RegIdx) (ans : BusAnswer) :
    ∃ d, busRead a i ans s = { s with device := d, busLog := busEvent s a (.read i) :: s.busLog } := by
  unfold busRead; split
  · exact ⟨_, rfl⟩
  · exact ⟨_, rfl⟩

/-! ### The parts that end a command -/

/-- `t` is `s` after a command ended: IDLE, the lock free, the same agent, nothing else suspended. -/
structure Ended (s t : State) : Prop where
  lock : t.lock = .free
  phase : t.phase = .idle
  suspended : t.suspended = s.suspended
  scope : t.scope = s.scope
  who : t.who = s.who

theorem finishRead_ended (p : Phase) (i : RegIdx) (result : Word → Payload) : Ended s (finishRead p i result s) := by
  cases h : (nextAnswer s).failure
  · rw [finishRead_ok s _ _ _ h]; exact ⟨rfl, rfl, rfl, rfl, rfl⟩
  · rw [finishRead_failed s _ _ _ h]; exact ⟨rfl, rfl, rfl, rfl, rfl⟩

theorem finishRest_ended (r : Rest) : Ended s (finishRest r s) := by
  cases r with
  | afterSettle =>
    obtain ⟨h1, h2, h3, h4, h5⟩ := finishRead_ended (endWait s) .rdConv .conversion .word
    exact ⟨h1, h2, h3, h4, h5⟩
  | afterLow lo => exact finishRead_ended s _ _ _

theorem wrcfgSteps_ended (w : Word) : Ended s (wrcfgSteps w s) := by
  cases h : (nextAnswer s).failure
  · rw [wrcfgSteps_ok s _ h]; exact ⟨rfl, rfl, rfl, rfl, rfl⟩
  · rw [wrcfgSteps_failed s _ h]; exact ⟨rfl, rfl, rfl, rfl, rfl⟩

theorem resetSteps_ended : Ended s (resetSteps s) := by
  unfold resetSteps
  dsimp only
  split <;> constructor <;>
    simp [complete, endCommand, release, acquire, State.setLock, State.setPhase, State.respond, busClose, State.logEvent]

/-! ### The first access of a command with two -/

/-- `t` is `s` after a first access, and `r` is what remains: where nothing does, the command has ended; under
`perAccess` the lock is free either way. -/
structure FirstDone (s t : State) (r : Option Rest) : Prop where
  suspended : t.suspended = s.suspended
  scope : t.scope = s.scope
  who : t.who = s.who
  ended : r = none → t.lock = .free ∧ t.phase = .idle
  unlocked : s.scope = .perAccess → t.lock = .free

theorem rdthrFirst_done : FirstDone s (rdthrFirst s) (rdthrRest s) := by
  cases h : (nextAnswer s).failure
  · obtain ⟨h1, h2⟩ := rdthrFirst_ok s h
    rw [h1, h2]
    exact ⟨rfl, rfl, rfl, nofun, fun h => by simp [lockAfterAccess, h]⟩
  · obtain ⟨h1, h2⟩ := rdthrFirst_failed s h
    rw [h1, h2]
    exact ⟨rfl, rfl, rfl, fun _ => ⟨rfl, rfl⟩, fun _ => rfl⟩

theorem rdssFirst_done (m : BitVec 3) : FirstDone s (rdssFirst m s) (rdssRest s) := by
  cases h : (nextAnswer s).failure
  · obtain ⟨h1, h2⟩ := rdssFirst_ok s m h
    rw [h1, h2]
    exact ⟨rfl, rfl, rfl, nofun, fun h => by simp [lockAfterAccess, h]⟩
  · obtain ⟨h1, h2⟩ := rdssFirst_failed s m h
    rw [h1, h2]
    exact ⟨rfl, rfl, rfl, fun _ => ⟨rfl, rfl⟩, fun _ => rfl⟩

/-! ### A suspended command, and INIT -/

/-- A suspended command that went on has ended, and the command in progress is as it was. -/
theorem resume_ended (p : Suspended) :
    (resume p s).lock = .free ∧ (resume p s).phase = s.phase ∧ (resume p s).suspended = none ∧
      (resume p s).scope = s.scope ∧ (resume p s).who = s.who := by
  obtain ⟨h1, -, h3, h4, -⟩ := finishRest_ended { s with who := p.agent, suspended := none } p.rest
  exact ⟨h1, rfl, h3, h4, rfl⟩

theorem endSuspended_moves : Moves s (endSuspended s) := by
  unfold endSuspended; split
  · exact resume_moves _ _
  · exact .refl

/-- INIT's steps are a ConfigurationError, or a construction after what was suspended has ended. -/
theorem initSteps_cases (busIdx : Nat) (gain : BitVec 3) (addr : BitVec 8) (rate : Nat) :
    (∃ what, initSteps busIdx gain addr rate s = raiseConfiguration what s) ∨
    ∃ g a r, initSteps busIdx gain addr rate s =
      (construct busIdx g a r (endSuspended s)).respond (.ok .none) := by
  unfold initSteps
  split
  · exact .inl ⟨_, rfl⟩
  split
  · exact .inl ⟨_, rfl⟩
  split
  · exact .inr ⟨_, _, _, rfl⟩
  · exact .inl ⟨_, rfl⟩

/-! ### Conditions of the statements -/

/-- Where a command is ready it is accepted. -/
theorem needOpen_ready (h : Ready s) (body : State → State) : needOpen s body = .next (body s) :=
  (needOpen_eq_next s).2 ⟨⟨h.1, h.2.1⟩, h.2.2.1, rfl⟩

/-- In a quiet gap nothing happens but that its number may be used. -/
theorem gap_quiet (h : GapQuiet s) :
    ∃ gs, ∀ t : State, t.scope = s.scope → t.gaps = s.gaps → gap t = { t with gaps := gs } := by
  rcases h with h | ⟨r, h⟩
  · exact ⟨s.gaps, fun t h1 h2 => by rw [gap_perCommand t (h1.trans h), ← h2]⟩
  · by_cases hs : s.scope = .perAccess
    · refine ⟨r, fun t h1 h2 => ?_⟩
      rw [gap_perAccess t (h1.trans hs), nextGap_cons t (h2.trans h), dropGap_cons t (h2.trans h)]; rfl
    · refine ⟨s.gaps, fun t h1 h2 => ?_⟩
      have : t.scope = .perCommand := by cases hh : t.scope <;> simp_all
      rw [gap_perCommand t this, ← h2]

end Sys2Proof.Machine
end

