-- ==== Sys2Proof/Laws/PerInstr.lean ====
section
/-! SUPPORT. One lemma per constructor of Instr for the family OpcodeBits: the encoder puts the operation's own code into
bits 31 to 28 of the command word (30_encoding.md R101, R103). -/

namespace Sys2Proof.Laws.OpcodeBits

open Sys2Proof

/-- The `op` field of an instruction's command word selects the instruction's own operation. -/
def Statement (i : Instr) : Prop := opOfCode (opField (encode i)) = some i.op

theorem encode (mux pga : BitVec 3) (mode : BitVec 1) (dr : BitVec 3) : Statement (.encode mux pga mode dr) := opOfCode_packWord _ _ _ _

theorem decode (w : Word) : Statement (.decode w) := opOfCode_packWord _ _ _ _

theorem getf (f : Field) (w : Word) : Statement (.getf f w) := opOfCode_packWord _ _ _ _

theorem setf (f : Field) (v : BitVec 3) (w : Word) : Statement (.setf f v w) := opOfCode_packWord _ _ _ _

theorem wrcfg (w : Word) : Statement (.wrcfg w) := opOfCode_packWord _ _ _ _

theorem rdcfg : Statement .rdcfg := opOfCode_packWord _ _ _ _

theorem rdconv : Statement .rdconv := opOfCode_packWord _ _ _ _

theorem rdthr : Statement .rdthr := opOfCode_packWord _ _ _ _

theorem rdss (mux : BitVec 3) : Statement (.rdss mux) := opOfCode_packWord _ _ _ _

theorem reset : Statement .reset := opOfCode_packWord _ _ _ _

theorem init (busIdx : Nat) (gain : BitVec 3) (addr : BitVec 8) (rate : Nat) :
    Statement (.init busIdx gain addr rate) := opOfCode_packWord _ _ _ _

end Sys2Proof.Laws.OpcodeBits
end

