-- ==== Sys2Proof/Laws/Steps.lean ====
section
/-! SUPPORT. Everything a step that gives a next state can be, and that such a step, taking no INIT, is a chain of elementary
moves. -/

namespace Sys2Proof.Machine

variable (s : State)

/-- A rejected word that gives a next state is answered with a ConfigurationError. -/
theorem rejectWord_eq_next {e : DecodeError} {t : State} (h : rejectWord e s = .next t) :
    ∃ what, t = raiseConfiguration what s := by
  unfold rejectWord at h
  split at h
  · cases h
  · next op what =>
    refine ⟨what, ?_⟩
    cases op <;> simp only [rejectIllFormed, needCodec_eq_next, needOpen_eq_next, needMade_eq_next,
      needNoInstance_eq_next] at h
    all_goals first | exact h.2 | exact h.2.2

/-- Taking the next request waits, runs a decoded instruction, or answers an ill-formed word. -/
theorem takeNext_cases {t : State} (h : takeNext s = .next t) :
    (s.port = [] ∧ t = s) ∨
    (∃ r rest i, s.port = r :: rest ∧ decode r.word = .instr i ∧ exec i (takeRequest r rest s) = .next t) ∨
    (∃ r rest what, s.port = r :: rest ∧ t = raiseConfiguration what (takeRequest r rest s)) := by
  unfold takeNext at h
  split at h
  · next hp => cases h; exact .inl ⟨hp, rfl⟩
  · next r rest hp =>
    split at h
    · next i hd => exact .inr (.inl ⟨r, rest, i, hp, hd, h⟩)
    · obtain ⟨what, hw⟩ := rejectWord_eq_next _ h
      exact .inr (.inr ⟨r, rest, what, hp, hw⟩)

/-- A step is the end of a suspended command, or takes the next request, where a gap's number may have been used. -/
theorem step_cases {t : State} (h : step s = .next t) :
    (∃ p, s.suspended = some p ∧ suspendedFirst p s = true ∧ t = resume p (dropGap s)) ∨
    (s.suspended = none ∧ takeNext s = .next t) ∨
    (∃ p, s.suspended = some p ∧ suspendedFirst p s = false ∧ takeNext (dropGap s) = .next t) := by
  unfold step at h
  split at h
  · next hs => exact .inr (.inl ⟨hs, h⟩)
  · next p hs =>
    split at h
    · next hf => cases h; exact .inl ⟨p, hs, hf, rfl⟩
    · next hf => exact .inr (.inr ⟨p, hs, by simpa using hf, h⟩)

theorem takeNext_moves {t : State}
    (hn : ∀ r rest b g a q, s.port = r :: rest → decode r.word ≠ .instr (.init b g a q)) (h : takeNext s = .next t) :
    Moves s t := by
  have take : ∀ r rest, Moves s (takeRequest r rest s) := fun r rest =>
    (Moves.one (.taken s rest)).tail (.agent _ r.agent)
  rcases takeNext_cases s h with ⟨-, rfl⟩ | ⟨r, rest, i, hp, hd, he⟩ | ⟨r, rest, what, -, rfl⟩
  · exact .refl
  · refine (take r rest).trans (exec_moves (fun hi => ?_) he)
    cases i <;> simp [Instr.op] at hi
    exact hn r rest _ _ _ _ hp hd
  · exact (take r rest).tail (.configurationError _ what)

/-- A step that takes no INIT is a chain of elementary moves. -/
theorem step_moves {t : State} (hn : ¬TakesInit s) (h : step s = .next t) : Moves s t := by
  rcases step_cases s h with ⟨p, -, -, rfl⟩ | ⟨hs, h⟩ | ⟨p, hs, hf, h⟩
  · exact (Moves.one (.gapUsed s)).trans (resume_moves p _)
  · refine takeNext_moves s (fun r rest b g a q hp hd => hn ⟨fun p hp' => ?_, r, rest, b, g, a, q, hp, hd⟩) h
    rw [hs] at hp'; cases hp'
  · refine (Moves.one (.gapUsed s)).trans
      (takeNext_moves _ (fun r rest b g a q hp hd => hn ⟨fun p' hp' => ?_, r, rest, b, g, a, q, hp, hd⟩) h)
    rw [hs] at hp'; cases hp'; exact hf

end Sys2Proof.Machine
end

