-- ==== Sys2Proof/Tests/Slice0.lean ====
section
/-! SUPPORT. Tests of the model against the worked examples and vectors of 30_encoding.md R106 and 95_test_vectors.md, the
smoke test of WellFormed, and a witness for the hypotheses of every statement that has some. Each test is about one word,
one operation or one step. -/

namespace Sys2Proof.Tests

open Sys2Proof Sys2Proof.Machine

/-! ### Helpers -/

/-- The state after INIT 0xA0000184 (95_test_vectors.md, start state of V7 to V12), with a scope chosen. -/
def constructed (scope : LockScope) : State :=
  { State.reset with made := true, addr := .ground, busIdx := 1, gain := .fs4096, rate := 4, scope := scope }

/-- A transaction that succeeds; a read that draws gets this word; no conversion ended. -/
def good (w : Word) : BusAnswer := { convEnded := false, spent := 0, failure := none, word := w, reached := false, started := false }

/-- A transaction that times out; a write did not reach the device. -/
def lost : BusAnswer := { convEnded := false, spent := 0, failure := some .timeout, word := 0, reached := false, started := false }

/-- A write that fails on the bus but reached the device. -/
def late : BusAnswer := { convEnded := false, spent := 0, failure := some .busLevel, word := 0, reached := true, started := true }

/-- A write that fails and left the old word, but whose trigger took effect. -/
def lostStarted : BusAnswer := { lost with started := true }

/-- A device in single-shot mode whose conversions have ended, with a known result (P3 step 3). -/
def finished : Device :=
  { Device.reset with conversion := 0xFF38, convKnown := true, config := 0xD383, cfgKnown := true, writer := some .caller }

/-- The constructed state with the environment's next answers. -/
def ready (answers : List BusAnswer) : State := { constructed .perCommand with answers := answers }

/-- What a step leads to, looked at through `f`; `none` where it stops. -/
def after {α : Type} (f : State → α) (o : Host.Outcome State Fault Refusal) : Option α :=
  match o with
  | .next t => some (f t)
  | .fault _ => none
  | .refused _ => none

/-- Why a step is refused, if it is. -/
def refusal (o : Host.Outcome State Fault Refusal) : Option Refusal :=
  match o with
  | .next _ => none
  | .fault _ => none
  | .refused r => some r

/-- The last response delivered. -/
def last (s : State) : Option Response := s.delivered.head?.map Delivery.resp

/-- The caller issues a command word. -/
def word (w : CmdWord) (s : State) : State := issue .caller w s

/-- What the bus saw, without agent and target. -/
def calls (s : State) : List BusCall :=
  s.busLog.filterMap fun e =>
    match e with
    | .call _ _ _ c => some c
    | .wait _ _ => none

/-! ### WellFormed: one ill-formed term for each check -/

theorem test_illformed_encode_gain : (Instr.encode 4 6 1 4).wellFormed = false := by decide
theorem test_illformed_setf_code : (Instr.setf .mode 2 0x8003).wellFormed = false := by decide
theorem test_illformed_init_bus : (Instr.init 256 1 0x48 4).wellFormed = false := by decide
theorem test_illformed_init_gain : (Instr.init 1 6 0x48 4).wellFormed = false := by decide
theorem test_illformed_init_address_low : (Instr.init 1 1 0x47 4).wellFormed = false := by decide
theorem test_illformed_init_address_high : (Instr.init 1 1 0x4C 4).wellFormed = false := by decide
theorem test_illformed_init_rate : (Instr.init 1 1 0x48 8).wellFormed = false := by decide

/-! ### Decoding: words written out from R101 to R105 as op, fsel, zeros, val, arg -/

theorem test_decode_encode : decode 0b0000_0000_00000_000_0_100_001_1_100_00000#32 = .instr (.encode 4 1 1 4) := by decide
theorem test_decode_decode : decode 0b0001_0000_00000_000_1100001110000011#32 = .instr (.decode 0xC383) := by decide
theorem test_decode_getf : decode 0b0010_0100_00000_000_1100001110000011#32 = .instr (.getf .dr 0xC383) := by decide
theorem test_decode_setf : decode 0b0011_0001_00000_101_1100001110000011#32 = .instr (.setf .mux 5 0xC383) := by decide
theorem test_decode_wrcfg : decode 0b0100_0000_00000_000_1100001110000011#32 = .instr (.wrcfg 0xC383) := by decide
theorem test_decode_rdcfg : decode 0b0101_0000_00000_000_0000000000000000#32 = .instr .rdcfg := by decide
theorem test_decode_rdconv : decode 0b0110_0000_00000_000_0000000000000000#32 = .instr .rdconv := by decide
theorem test_decode_rdthr : decode 0b0111_0000_00000_000_0000000000000000#32 = .instr .rdthr := by decide
theorem test_decode_rdss : decode 0b1000_0000_00000_000_0000000000000_100#32 = .instr (.rdss 4) := by decide
theorem test_decode_reset : decode 0b1001_0000_00000_000_0000000000000000#32 = .instr .reset := by decide
theorem test_decode_init : decode 0b1010_0000_00000_000_00000001_100_001_00#32 = .instr (.init 1 1 0x48 4) := by decide

/-- V7: three more INIT words. -/
theorem test_decode_init_corners :
    decode 0xA00000F7 = .instr (.init 0 5 0x4B 7) ∧ decode 0xA000FF01 = .instr (.init 255 0 0x49 0) ∧
    decode 0xA00001E6 = .instr (.init 1 1 0x4A 7) := by decide

/-- V3, V4: the last selector and a 1-bit code. -/
theorem test_decode_selectors :
    decode 0x2800FFFF = .instr (.getf .cque 0xFFFF) ∧ decode 0x3802FFFF = .instr (.setf .cque 2 0xFFFF) ∧
    decode 0x30010000 = .instr (.setf .os 1 0) ∧ decode 0x37001234 = .instr (.setf .clat 0 0x1234) := by decide

/-- V1, V3, V4, V7, V10, V12: ill-formed words. -/
theorem test_decode_illformed :
    decode 0x00000C00 = .error (.illFormed .encode .gain) ∧ decode 0x00008000 = .error (.illFormed .encode .mustBeZero) ∧
    decode 0x00000001 = .error (.illFormed .encode .mustBeZero) ∧ decode 0x00800000 = .error (.illFormed .encode .mustBeZero) ∧
    decode 0x2900C383 = .error (.illFormed .getf .fieldSelector) ∧ decode 0x33028003 = .error (.illFormed .setf .fieldCode) ∧
    decode 0x80000008 = .error (.illFormed .rdss .mustBeZero) ∧ decode 0x50000001 = .error (.illFormed .rdcfg .mustBeZero) ∧
    decode 0xA0000198 = .error (.illFormed .init .gain) := by decide

/-- V12: reserved opcodes at both ends of their range. -/
theorem test_decode_reserved :
    decode 0xB0000000 = .error (.reservedOpcode 0xB) ∧ decode 0xFFFFFFFF = .error (.reservedOpcode 0xF) := by decide

/-- The table's numbering: the word is one 32-bit word. -/
theorem test_table_word : decodeTableWord 32 0x80000004 = some (.rdss 4) ∧ decodeTableWord 32 0xB0000000 = none := by decide

/-! ### The codec (V1 to V5) -/

theorem test_encode_result :
    after last (step (word 0x00004380 (ready []))) = some (some (.ok (.word 0xC383))) := by decide
theorem test_encode_words :
    encodeWord 0 0 0 0 = 0x8003 ∧ encodeWord 7 5 1 7 = 0xFBE3 ∧ encodeWord 3 3 1 2 = 0xB743 ∧ encodeWord 4 1 0 7 = 0xC2E3 := by
  decide

theorem test_decode_result :
    after last (step (word 0x1000ABCD (ready []))) =
      some (some (.ok (.fields { os := 1, mux := 2, pga := 5, mode := 1, dr := 6, cmode := 0, cpol := 1, clat := 1, cque := 1 }))) := by
  decide
theorem test_decode_fields :
    decodeFields 0x5A5A = { os := 0, mux := 5, pga := 5, mode := 0, dr := 2, cmode := 1, cpol := 1, clat := 0, cque := 2 } := by
  decide

theorem test_getf_result :
    after last (step (word 0x2400C383 (ready []))) = some (some (.ok (.code 4))) := by decide
theorem test_getf_corners :
    extractField 0x8E83 .pga = 7 ∧ extractField 0xFFFF .cque = 3 ∧ extractField 0xABCD .clat = 1 := by decide

theorem test_setf_result :
    after last (step (word 0x3105C383 (ready []))) = some (some (.ok (.word 0xD383))) := by decide
theorem test_setf_corners :
    insertField 0xFFFF .pga 0 = 0xF1FF ∧ insertField 0x0000 .dr 7 = 0x00E0 ∧ insertField 0xC383 .os 0 = 0x4383 ∧
    insertField (insertField 0 .mux 7) .dr 7 = 0x70E0 := by decide

/-- V4: MODE := 2 is rejected before anything. -/
theorem test_setf_too_wide :
    after last (step (word 0x33028003 (ready []))) = some (some (.err (.configurationError .fieldCode))) := by decide

/-- V6. -/
theorem test_signed_reading :
    sint16 0x3E80 = 16000 ∧ sint16 0x8000 = -32768 ∧ sint16 0xFF38 = -200 ∧ sint16 0x7FFF = 32767 := by decide

/-! ### The sequencer (V7 to V11) -/

theorem test_init_result :
    after (fun t => (t.made, t.addr, t.busIdx, t.gain, t.rate)) (step (word 0xA000FF01 State.reset)) =
      some (true, .supply, 255, .fs6144, 0) ∧
    after (fun t => (t.lastCfg, t.busLog, last t)) (step (word 0xA000FF01 State.reset)) =
      some (none, [], some (.ok .none)) := by decide
theorem test_init_address_outside :
    after last (exec (.init 1 1 0x47 4) State.reset) = some (some (.err (.configurationError .address))) := by decide

theorem test_wrcfg_result :
    after (fun t => (calls t, t.lastCfg, t.device.config, last t)) (step (word 0x4000C283 (ready [good 0]))) =
      some ([.write .config 0xC283], some 0xC283, 0xC283, some (.ok .none)) := by decide
theorem test_wrcfg_fails :
    after (fun t => (calls t, t.lastCfg, t.device.config, last t)) (step (word 0x4000C283 (ready [late]))) =
      some ([.write .config 0xC283], none, 0xC283, some (.err (.busError .config .write))) := by decide

/-- R216, I7: the old word stayed, and a conversion was triggered all the same. -/
theorem test_wrcfg_fails_started :
    after (fun t => (t.lastCfg, t.device.config, t.device.convPending))
      (step (word 0x4000C383 { ready [lostStarted] with device := finished })) =
      some (none, 0xD383, 1) := by decide

/-- P2 step 3: the status bit reads 0, bits 14 to 0 are those written. -/
theorem test_rdcfg_result :
    after (fun t => (calls t, last t))
      (step (word 0x50000000 { ready [good 0x7FFF] with
        device := { Device.reset with config := 0xC283, cfgKnown := true, writer := some .caller } })) =
      some ([.read .config], some (.ok (.word 0x4283))) := by decide
theorem test_rdcfg_fails :
    after (fun t => (calls t, last t)) (step (word 0x50000000 (ready [lost]))) =
      some ([.read .config], some (.err (.busError .config .read))) := by decide

theorem test_rdconv_result :
    after (fun t => (calls t, last t)) (step (word 0x60000000 (ready [good 0x3E80]))) =
      some ([.read .conversion], some (.ok (.word 0x3E80))) := by decide
/-- P3 step 3: the same word again, whatever the environment would draw. -/
theorem test_rdconv_repeats :
    after last
      (step (word 0x60000000 { ready [{ good 0x1111 with convEnded := true }] with
        device := { Device.reset with
          conversion := 0xFF38, convKnown := true, config := 0xD383, cfgKnown := true, writer := some .caller } })) =
      some (some (.ok (.word 0xFF38))) := by decide

theorem test_rdthr_result :
    after (fun t => (calls t, last t, t.lastCfg)) (step (word 0x70000000 (ready [good 0x8000, good 0x7FFF]))) =
      some ([.read .highThreshold, .read .lowThreshold], some (.ok (.pair 0x8000 0x7FFF)), none) := by decide
theorem test_rdthr_first_fails :
    after (fun t => (calls t, last t)) (step (word 0x70000000 (ready [lost, good 0x7FFF]))) =
      some ([.read .lowThreshold], some (.err (.busError .lowThreshold .read))) := by decide
/-- V9: the binary payload of a pair. -/
theorem test_rdthr_lines : responseLines 0 (.ok (.pair 0x8000 0x7FFF)) = 0x7FFF8000 := by decide

theorem test_rdss_result :
    after (fun t => (t.busLog, t.lastCfg, last t)) (step (word 0x80000005 (ready [good 0, good 0xFF38]))) =
      some ([.call .caller 1 .ground (.read .conversion), .wait .caller 4, .call .caller 1 .ground (.write .config 0xD383)],
        some 0xD383, some (.ok (.word 0xFF38))) := by decide
theorem test_rdss_write_fails :
    after (fun t => (t.busLog, t.lastCfg, last t)) (step (word 0x80000004 (ready [lost]))) =
      some ([.call .caller 1 .ground (.write .config 0xC383)], none, some (.err (.busError .config .write))) := by decide
/-- V10: with other construction values. -/
theorem test_rdss_words :
    singleShotWord 4 { ready [] with gain := .fs6144, rate := 0 } = 0xC103 ∧
    singleShotWord 7 { ready [] with gain := .fs0256, rate := 7 } = 0xFBE3 ∧
    singleShotWord 4 { ready [] with gain := .fs2048, rate := 7 } = 0xC5E3 := by decide

theorem test_reset_closes :
    after (fun t => (calls t, t.isOpen, last t)) (step (word 0x90000000 (ready []))) =
      some ([.close], false, some (.ok .none)) := by decide
theorem test_reset_again :
    after (fun t => (calls t, t.isOpen, last t)) (step (word 0x90000000 { ready [] with isOpen := false })) =
      some ([], false, some (.ok .none)) := by decide

/-- V11, V12: what is refused. -/
theorem test_refused :
    refusal (step (word 0x60000000 { ready [] with isOpen := false })) = some .handleReleased ∧
    refusal (step (word 0xA0000184 (ready []))) = some .instanceExists ∧
    refusal (step (word 0x60000000 State.reset)) = some .noInstance ∧
    refusal (step (word 0xC0000000 (ready []))) = some (.reservedOpcode 0xC) ∧
    refusal (step (word 0x00004380 State.reset)) = some .noInstance ∧
    refusal (step (word 0x2900C383 { ready [] with isOpen := false })) = some .handleReleased := by decide

/-- V12: an ill-formed word of an accepted command changes nothing but the response. -/
theorem test_illformed_word :
    after (fun t => (calls t, t.lastCfg, last t)) (step (word 0x50000001 (ready [good 0]))) =
      some ([], none, some (.err (.configurationError .mustBeZero))) := by decide

/-- The other agent's RDTHR, suspended between its two reads, goes on before its agent's next command (R61). -/
theorem test_suspended_goes_on :
    after (fun t => (calls t, t.suspended, t.delivered))
      (step { constructed .perAccess with
        answers := [good 0x7FFF], suspended := some ⟨.background, .afterLow 0x8000⟩, gaps := [1] }) =
      some ([.read .highThreshold], none, [⟨.background, .ok (.pair 0x8000 0x7FFF)⟩]) := by decide

/-! ### The callers (V6, V13, V14) -/

theorem test_volts : volts .fs4096 0x3E80 = 2 ∧ volts .fs6144 0x3E80 = 3 ∧ volts .fs4096 0x8000 = -4096 / 1000 := by
  decide +kernel
theorem test_hysteresis :
    publishes (1 / 10) 100 109 = false ∧ publishes (1 / 10) 100 111 = true ∧ publishes (1 / 10) 100 110 = false ∧
    publishes (1 / 10) 100 90 = false ∧ publishes (1 / 10) 100 89 = true ∧ publishes (1 / 10) 0 1 = true ∧
    publishes (1 / 10) (-100) (-100) = true := by
  decide +kernel
theorem test_rate_bounds :
    fastRateOk 4 128 = true ∧ fastRateOk 4 129 = false ∧ slowRateOk 4 4 16 = true ∧ slowRateOk 4 4 17 = false ∧
    slowRateOk 7 4 (215 / 2) = true ∧ slowRateOk 0 4 2 = false := by
  decide +kernel

/-! ### Witnesses: for each statement with hypotheses, a state and operands that meet them, each clause at a boundary -/

/-- The state in which a request of the caller stands alone at the port. -/
def asked (w : CmdWord) (s : State) : State := { s with port := [⟨.caller, w⟩] }

theorem witness_DecodeOfEncode : (Instr.init 255 5 0x4B 7).wellFormed = true := by decide

theorem witness_EncodeOfDecoded : decode 0xA000FFF7 = .instr (.init 255 5 0x4B 7) := by decide

theorem witness_UnbrokenWordDecodes : Op.code .getf = (0x2800FFFF : CmdWord).extractLsb' 28 4 ∧ ¬WordBroken .getf 0x2800FFFF := by
  decide

/-- The gain and the must-be-zero clauses. -/
theorem witness_UnbrokenWordDecodes_encode :
    Op.code .encode = (0x00007BE0 : CmdWord).extractLsb' 28 4 ∧ ¬WordBroken .encode 0x00007BE0 := by
  decide

/-- Must-be-zero. -/
theorem witness_BrokenWordIsConfigurationError :
    (asked 0x80000008 (ready [])).suspended = none ∧ (asked 0x80000008 (ready [])).port = [⟨.caller, 0x80000008⟩] ∧
    Op.code .rdss = (0x80000008 : CmdWord).extractLsb' 28 4 ∧ WordBroken .rdss 0x80000008 ∧
    Accepts .rdss (asked 0x80000008 (ready [])) := by
  refine ⟨rfl, rfl, by decide, .inl (by decide), by decide⟩

/-- The selector clause at 9. -/
theorem witness_BrokenWordIsConfigurationError_selector :
    Op.code .getf = (0x2900C383 : CmdWord).extractLsb' 28 4 ∧ WordBroken .getf 0x2900C383 ∧
    Accepts .getf (asked 0x2900C383 (ready [])) :=
  ⟨by decide, .inr (.inl (by decide)), rfl, rfl⟩

/-- The code clause at `2^width`. -/
theorem witness_BrokenWordIsConfigurationError_code :
    Op.code .setf = (0x33028003 : CmdWord).extractLsb' 28 4 ∧ WordBroken .setf 0x33028003 ∧
    Accepts .setf (asked 0x33028003 (ready [])) :=
  ⟨by decide, .inr (.inr (.inl ⟨rfl, .mode, by decide⟩)), rfl, rfl⟩

/-- The gain clauses at 6. -/
theorem witness_BrokenWordIsConfigurationError_gain :
    Op.code .encode = (0x00000C00 : CmdWord).extractLsb' 28 4 ∧ WordBroken .encode 0x00000C00 ∧
    Accepts .encode (ready []) ∧
    Op.code .init = (0xA0000198 : CmdWord).extractLsb' 28 4 ∧ WordBroken .init 0xA0000198 ∧ Accepts .init State.reset :=
  ⟨by decide, .inr (.inr (.inr (.inl (by decide)))), ⟨rfl, rfl⟩, by decide, .inr (.inr (.inr (.inr (by decide)))), by decide⟩

theorem witness_ReservedOpcodeRefused :
    (asked 0xB0000000 State.reset).suspended = none ∧ (asked 0xB0000000 State.reset).port = [⟨.caller, 0xB0000000⟩] ∧
    0xB ≤ (0xB0000000 : CmdWord).toNat / 2 ^ 28 :=
  ⟨rfl, rfl, by decide⟩

theorem witness_StepRunsDecoded :
    (asked 0x90000000 (ready [])).port = [⟨.caller, 0x90000000⟩] ∧ decode 0x90000000 = .instr .reset ∧
    (asked 0x90000000 (ready [])).suspended = none :=
  ⟨rfl, by decide, rfl⟩

/-- The clause for a suspended command. -/
theorem witness_StepRunsDecoded_suspended :
    (asked 0x90000000 { constructed .perAccess with suspended := some ⟨.background, .afterSettle⟩ }).suspended =
      some ⟨.background, .afterSettle⟩ := rfl

theorem witness_IdlePortWaits : State.reset.port = [] ∧ State.reset.suspended = none := ⟨rfl, rfl⟩

/-- The scope is `perCommand`, so the last clause is met too. -/
theorem witness_ResponseToIssuer :
    Instr.op .rdthr ≠ .init ∧ (∃ t, exec .rdthr (ready [good 1, good 2]) = .next t) ∧ (ready []).scope = .perCommand :=
  ⟨by decide, ⟨_, rfl⟩, rfl⟩

theorem witness_StatusIsOkBusOrConfiguration :
    (∃ t, exec .rdconv (ready [lost]) = .next t) ∧ ∃ t, step (asked 0x80000008 (ready [])) = .next t :=
  ⟨⟨_, rfl⟩, ⟨_, rfl⟩⟩

theorem ready_Live (answers : List BusAnswer) : Live (ready answers) := ⟨rfl, rfl⟩

theorem witness_GetfExtractsField : Live (ready []) := ready_Live _

theorem witness_DecodeSplitsWord : Live (ready []) := ready_Live _

/-- A code that just fits and one that just does not. -/
theorem witness_SetfReplacesField :
    Live (ready []) ∧ (3 : BitVec 3).toNat < 2 ^ Field.width .cque ∧ 2 ^ Field.width .cque ≤ (4 : BitVec 3).toNat :=
  ⟨ready_Live _, by decide, by decide⟩

theorem witness_EncodeBuildsWord : Live (ready []) ∧ (5 : BitVec 3).toNat ≤ 5 ∧ 6 ≤ (6 : BitVec 3).toNat :=
  ⟨ready_Live _, by decide, by decide⟩

theorem witness_FieldsIndependent :
    (7 : Word).toNat < 2 ^ Field.width .mux ∧ (1 : Word).toNat < 2 ^ Field.width .os ∧ Field.mux ≠ Field.os := by decide

theorem witness_CodecIsStateless : isCodec (Instr.op (.decode 0)) = true ∧ Live (ready []) := ⟨rfl, ready_Live _⟩

/-- The state after a release, with a command of the released instance suspended. -/
def leftBehind : State :=
  { constructed .perAccess with isOpen := false, suspended := some ⟨.background, .afterSettle⟩, answers := [good 1] }

/-- Before the first construction, and after a release with a command suspended. -/
theorem witness_InitConstructs :
    ¬Live State.reset ∧ ¬Live leftBehind ∧ leftBehind.suspended = some ⟨.background, .afterSettle⟩ ∧
    (5 : BitVec 3).toNat ≤ 5 ∧ 0x48 ≤ (0x4B : BitVec 8).toNat ∧ (0x4B : BitVec 8).toNat ≤ 0x4B ∧ State.reset.suspended = none := by
  refine ⟨by decide, by decide, rfl, by decide, by decide, by decide, rfl⟩

theorem witness_InitChecksOperands :
    ¬Live State.reset ∧ (0x47 : BitVec 8).toNat < 0x48 ∧
    0x4B < (0x4C : BitVec 8).toNat ∧ 6 ≤ (6 : BitVec 3).toNat ∧ 8 ≤ 8 := by
  refine ⟨by decide, by decide, by decide, by decide, by decide⟩

theorem witness_ResetClosesHandle :
    (ready []).made = true ∧ (ready []).phase = .idle ∧ (ready []).isOpen = true ∧
    { ready [] with isOpen := false }.isOpen = false := ⟨rfl, rfl, rfl, rfl⟩

theorem witness_RefusedOutsideLifecycle :
    (Instr.op (.decode 0) ≠ .init ∧ State.reset.made = false) ∧
    (Instr.op (.decode 0) ≠ .reset ∧ { ready [] with isOpen := false }.made = true ∧
      { ready [] with isOpen := false }.isOpen = false) ∧
    (Instr.op (.init 1 1 0x48 4) = .init ∧ (ready []).made = true ∧ (ready []).isOpen = true) := by
  refine ⟨⟨by decide, rfl⟩, ⟨by decide, rfl, rfl⟩, ⟨rfl, rfl, rfl⟩⟩

/-- With the handle open; and RESET with the handle released. -/
theorem witness_NotAcceptedUnlessIdle :
    isCodec (Instr.op .reset) = false ∧ Instr.op .reset ≠ .init ∧ (ready []).made = true ∧ (ready []).isOpen = true ∧
    { ready [] with phase := .settle }.phase ≠ .idle := by
  refine ⟨rfl, by decide, rfl, rfl, by decide⟩

theorem ready_Ready (answers : List BusAnswer) : Ready (ready answers) := ⟨rfl, rfl, rfl, rfl⟩

/-- A single-shot word with OS 1, and a continuous one. -/
theorem witness_WrcfgWritesConfig :
    Ready (ready [good 0]) ∧ (ready [good 0]).answers = [good 0] ∧ Succeeds (good 0) ∧
    (0xC383 : Word).getLsbD 15 = true ∧ (0xC383 : Word).getLsbD 8 = true ∧ (good 0).convEnded = false ∧
    (0xC283 : Word).getLsbD 8 = false ∧ { good 0 with convEnded := true }.convEnded = true ∧
    ¬NoneCanEnd (ready [good 0]).device :=
  ⟨ready_Ready _, rfl, rfl, by decide, by decide, rfl, by decide, rfl, by decide⟩

/-- A failed write that reached the device, of a single-shot and of a continuous word, and one that did not. -/
theorem witness_WrcfgFailureKeepsShadow :
    Ready (ready [late]) ∧ (ready [late]).answers = [late] ∧ late.failure = some .busLevel ∧ late.reached = true ∧
    late.convEnded = false ∧ (0xC383 : Word).getLsbD 8 = true ∧ (0xC283 : Word).getLsbD 8 = false ∧
    Ready (ready [lost]) ∧ (ready [lost]).answers = [lost] ∧ lost.failure = some .timeout ∧ lost.reached = false ∧
    lost.started = false ∧ (ready [late]).device.convKnown = false ∧
    Ready (ready [lostStarted]) ∧ (ready [lostStarted]).answers = [lostStarted] ∧ lostStarted.failure = some .timeout ∧
    lostStarted.reached = false ∧ lostStarted.started = true :=
  ⟨ready_Ready _, rfl, rfl, rfl, rfl, by decide, by decide, ready_Ready _, rfl, rfl, rfl, rfl, rfl, ready_Ready _, rfl, rfl,
    rfl, rfl⟩

/-- A state in which the config register is known and one in which it is not. -/
theorem witness_RdcfgReturnsConfig :
    Ready (ready [good 0]) ∧ (ready [good 0]).answers = [good 0] ∧ Succeeds (good 0) ∧
    (ready [good 0]).device.cfgKnown = false ∧
    Ready { ready [good 0] with device := Device.reset.accept .caller 0xC283 false } ∧
    { ready [good 0] with device := Device.reset.accept .caller 0xC283 false }.device.cfgKnown = true :=
  ⟨ready_Ready _, rfl, rfl, rfl, ⟨rfl, rfl, rfl, rfl⟩, rfl⟩

/-- A transaction before which a conversion ended, if one could. -/
def goodEnded (w : Word) : BusAnswer := { good w with convEnded := true }

/-- The result unknown; known with a conversion that ended; known with none that could. -/
theorem witness_RdconvReturnsConversion :
    Ready (ready [good 7]) ∧ (ready [good 7]).answers = [good 7] ∧ Succeeds (good 7) ∧ (good 7).convEnded = false ∧
    (ready [good 7]).device.convKnown = false ∧ (ready [good 7]).device.cfgKnown = false ∧
    Succeeds (goodEnded 7) ∧ (goodEnded 7).convEnded = true ∧
    finished.convKnown = true ∧ NoneCanEnd finished ∧ ¬NoneCanEnd { finished with config := 0xC283 } ∧
    ¬NoneCanEnd { finished with convPending := 1 } :=
  ⟨ready_Ready _, rfl, rfl, rfl, rfl, rfl, rfl, rfl, rfl, by decide, by decide, by decide⟩

/-- No conversion ended; none could. -/
theorem witness_RdconvRepeatsWithoutConversion :
    Ready (ready [good 7, good 8]) ∧ (ready [good 7, good 8]).answers = [good 7, good 8] ∧ Succeeds (good 7) ∧
    Succeeds (good 8) ∧ (good 8).convEnded = false ∧
    Ready { ready [good 7, goodEnded 8] with device := finished } ∧ Succeeds (goodEnded 8) ∧
    NoneCanEnd { ready [good 7, goodEnded 8] with device := finished }.device :=
  ⟨ready_Ready _, rfl, rfl, rfl, rfl, ⟨rfl, rfl, rfl, rfl⟩, rfl, by decide⟩

/-- Under `perCommand`, and under `perAccess` with a quiet gap. -/
theorem witness_RdthrReturnsPair :
    Ready (ready [good 7, good 8]) ∧ GapQuiet (ready [good 7, good 8]) ∧
    (ready [good 7, good 8]).answers = [good 7, good 8] ∧ Succeeds (good 7) ∧ Succeeds (good 8) ∧
    Ready { constructed .perAccess with answers := [good 7, good 8], gaps := [0] } ∧
    GapQuiet { constructed .perAccess with answers := [good 7, good 8], gaps := [0] } :=
  ⟨ready_Ready _, .inl rfl, rfl, rfl, rfl, ⟨rfl, rfl, rfl, rfl⟩, .inr ⟨[], rfl⟩⟩

/-- The first read fails; the second fails. -/
theorem witness_RdthrFailureEndsCommand :
    Ready (ready [lost, good 8]) ∧ GapQuiet (ready [lost, good 8]) ∧ (ready [lost, good 8]).answers = [lost, good 8] ∧
    lost.failure = some .timeout ∧
    Ready (ready [good 7, lost]) ∧ GapQuiet (ready [good 7, lost]) ∧ (ready [good 7, lost]).answers = [good 7, lost] ∧
    Succeeds (good 7) :=
  ⟨ready_Ready _, .inl rfl, rfl, rfl, ready_Ready _, .inl rfl, rfl, rfl⟩

theorem witness_RdssWritesSettlesReads :
    Ready (ready [good 7, good 8]) ∧ GapQuiet (ready [good 7, good 8]) ∧
    (ready [good 7, good 8]).answers = [good 7, good 8] ∧ Succeeds (good 7) ∧ Succeeds (good 8) :=
  ⟨ready_Ready _, .inl rfl, rfl, rfl, rfl⟩

/-- The write fails; the read fails. -/
theorem witness_RdssFailureEndsCommand :
    Ready (ready [late, good 8]) ∧ GapQuiet (ready [late, good 8]) ∧ (ready [late, good 8]).answers = [late, good 8] ∧
    late.failure = some .busLevel ∧ late.reached = true ∧ late.convEnded = false ∧
    (ready [lost, good 8]).answers = [lost, good 8] ∧ lost.failure = some .timeout ∧ lost.reached = false ∧
    lost.started = false ∧ (ready [lostStarted, good 8]).answers = [lostStarted, good 8] ∧
    lostStarted.failure = some .timeout ∧ lostStarted.reached = false ∧ lostStarted.started = true ∧
    Ready (ready [good 7, late]) ∧ GapQuiet (ready [good 7, late]) ∧ (ready [good 7, late]).answers = [good 7, late] ∧
    Succeeds (good 7) :=
  ⟨ready_Ready _, .inl rfl, rfl, rfl, rfl, rfl, rfl, rfl, rfl, rfl, rfl, rfl, rfl, rfl, ready_Ready _, .inl rfl, rfl, rfl⟩

theorem witness_ReadFailureChangesNothing :
    Ready (ready [lost]) ∧ (ready [lost]).answers = [lost] ∧ lost.failure = some .timeout :=
  ⟨ready_Ready _, rfl, rfl⟩

theorem witness_BusCommandsAlwaysEnd : usesBus (Instr.op (.rdss 7)) = true ∧ Ready (ready []) := ⟨rfl, ready_Ready _⟩

theorem witness_RdcfgReadsBackWrcfg :
    Ready (ready [good 7, good 8]) ∧ (ready [good 7, good 8]).answers = [good 7, good 8] ∧ Succeeds (good 7) ∧
    Succeeds (good 8) :=
  ⟨ready_Ready _, rfl, rfl, rfl⟩

/-- P6: the caller's RDSS 4, the background agent's WRCFG 0xC283. -/
def sharedState : State :=
  { constructed .perAccess with
    answers := [good 1, good 2, good 3], gaps := [1], port := [⟨.background, encode (.wrcfg 0xC283)⟩] }

theorem witness_WrcfgFallsInsideRdss :
    Ready sharedState ∧ sharedState.scope = .perAccess ∧ sharedState.suspended = none ∧
    sharedState.answers = [good 1, good 2, good 3] ∧ Succeeds (good 1) ∧ Succeeds (good 2) ∧ Succeeds (good 3) ∧
    sharedState.gaps = [1] ∧ sharedState.port = [⟨otherOf sharedState.who, encode (.wrcfg 0xC283)⟩] :=
  ⟨⟨rfl, rfl, rfl, rfl⟩, rfl, rfl, rfl, rfl, rfl, rfl, rfl, rfl⟩

/-- P6: the order of the transactions. -/
theorem test_wrcfg_falls_inside_rdss :
    after (fun t => (calls t, t.lastCfg)) (exec (.rdss 4) sharedState) =
      some ([.read .conversion, .write .config 0xC283, .write .config 0xC383], some 0xC283) := by decide

/-- P6's state with another command of the background agent at the port. -/
def sharedWith (w : CmdWord) : State := { sharedState with port := [⟨.background, w⟩] }

/-- Each of the two commands that can be left suspended. -/
theorem witness_CommandBegunInGapIsSuspended :
    Ready (sharedWith 0x70000000) ∧ (sharedWith 0x70000000).scope = .perAccess ∧
    (sharedWith 0x70000000).suspended = none ∧ (sharedWith 0x70000000).answers = [good 1, good 2, good 3] ∧
    Succeeds (good 1) ∧ Succeeds (good 2) ∧ Succeeds (good 3) ∧ (sharedWith 0x70000000).gaps = [1] ∧
    (sharedWith 0x70000000).port = [⟨otherOf (sharedWith 0x70000000).who, encode .rdthr⟩] ∧
    (sharedWith 0x80000007).port = [⟨otherOf (sharedWith 0x80000007).who, encode (.rdss 7)⟩] :=
  ⟨⟨rfl, rfl, rfl, rfl⟩, rfl, rfl, rfl, rfl, rfl, rfl, rfl, rfl, rfl⟩

/-- A state with a suspended command, nothing at the port and the next answer. -/
def waiting (r : Rest) (a : BusAnswer) : State :=
  { constructed .perAccess with
    suspended := some ⟨.background, r⟩, answers := [a],
    device := { finished with writer := some .background, convPending := 1, convKnown := false } }

/-- Each rest; success and failure; the own word last and another; the result unknown, and known with none left to end. -/
theorem witness_SuspendedCommandEnds :
    (waiting .afterSettle (good 7)).suspended = some ⟨.background, .afterSettle⟩ ∧
    suspendedFirst ⟨.background, .afterSettle⟩ (waiting .afterSettle (good 7)) = true ∧
    (waiting .afterSettle (good 7)).answers = [good 7] ∧ Succeeds (good 7) ∧
    (waiting .afterSettle (good 7)).device.writer = some .background ∧
    (waiting .afterSettle (good 7)).device.convPending ≠ 0 ∧ (waiting .afterSettle (good 7)).device.convKnown = false ∧
    { waiting .afterSettle (good 7) with device := finished }.device.convPending = 0 ∧
    (goodEnded 7).convEnded = true ∧ ¬NoneCanEnd (waiting .afterSettle (good 7)).device ∧ NoneCanEnd finished ∧
    { waiting .afterSettle (good 7) with device := finished }.device.writer ≠ some .background ∧
    { waiting .afterSettle (good 7) with device := finished }.device.convKnown = true ∧ (good 7).convEnded = false ∧
    (waiting (.afterLow 5) (good 7)).suspended = some ⟨.background, .afterLow 5⟩ ∧
    suspendedFirst ⟨.background, .afterLow 5⟩ (waiting (.afterLow 5) (good 7)) = true ∧
    lost.failure = some .timeout ∧ (waiting (.afterLow 5) lost).answers = [lost] :=
  ⟨rfl, rfl, rfl, rfl, rfl, by decide, rfl, rfl, rfl, by decide, by decide, by decide, rfl, rfl, rfl, rfl, rfl, rfl⟩

/-- The background agent's RDCONV at the port of a device whose conversions have ended, and a next read before which one
ended or none did. -/
def sharedRead (b : BusAnswer) : State :=
  { sharedWith 0x60000000 with answers := [good 1, b, goodEnded 3], device := finished }

theorem witness_OneTriggerOneResult :
    Ready (sharedRead (goodEnded 2)) ∧ (sharedRead (goodEnded 2)).scope = .perAccess ∧
    (sharedRead (goodEnded 2)).suspended = none ∧ (sharedRead (goodEnded 2)).answers = [good 1, goodEnded 2, goodEnded 3] ∧
    Succeeds (good 1) ∧ Succeeds (goodEnded 2) ∧ Succeeds (goodEnded 3) ∧ (sharedRead (goodEnded 2)).gaps = [1] ∧
    (sharedRead (goodEnded 2)).port = [⟨otherOf (sharedRead (goodEnded 2)).who, encode .rdconv⟩] ∧
    NoneCanEnd (sharedRead (goodEnded 2)).device ∧ (goodEnded 2).convEnded = true ∧
    Ready (sharedRead (good 2)) ∧ (good 2).convEnded = false :=
  ⟨⟨rfl, rfl, rfl, rfl⟩, rfl, rfl, rfl, rfl, rfl, rfl, rfl, rfl, by decide, rfl, ⟨rfl, rfl, rfl, rfl⟩, rfl⟩

/-- I1: the triggered conversion ended before the other agent's RDCONV, so both agents read its one result. -/
theorem test_one_trigger_one_result :
    after (fun t => t.delivered) (exec (.rdss 4) (sharedRead (goodEnded 2))) =
      some [⟨.caller, .ok (.word 2)⟩, ⟨.background, .ok (.word 2)⟩] := by decide

theorem witness_IllFormedWordAnsweredInGap :
    Ready (sharedWith 0x2900C383) ∧ (sharedWith 0x2900C383).scope = .perAccess ∧
    (sharedWith 0x2900C383).suspended = none ∧ (sharedWith 0x2900C383).answers = [good 1, good 2, good 3] ∧
    Succeeds (good 1) ∧ Succeeds (good 2) ∧ (sharedWith 0x2900C383).gaps = [1] ∧
    (sharedWith 0x2900C383).port = [⟨otherOf (sharedWith 0x2900C383).who, 0x2900C383⟩] ∧
    decode 0x2900C383 = .error (.illFormed .getf .fieldSelector) ∧ Op.getf ≠ .init :=
  ⟨⟨rfl, rfl, rfl, rfl⟩, rfl, rfl, rfl, rfl, rfl, rfl, rfl, by decide, by decide⟩

theorem witness_ContinuousModeReplacesResult :
    Ready (ready [good 1, goodEnded 2, goodEnded 3]) ∧
    (ready [good 1, goodEnded 2, goodEnded 3]).answers = [good 1, goodEnded 2, goodEnded 3] ∧ Succeeds (good 1) ∧
    Succeeds (goodEnded 2) ∧ Succeeds (goodEnded 3) ∧ (0xC283 : Word).getLsbD 8 = false ∧
    (goodEnded 2).convEnded = true ∧ (goodEnded 3).convEnded = true :=
  ⟨ready_Ready _, rfl, rfl, rfl, rfl, by decide, rfl, rfl⟩

/-- The device free-runs under 0xC283; the next four answers. -/
def freeRunning : State :=
  { ready [good 1, goodEnded 2, goodEnded 3, goodEnded 4] with device := { finished with config := 0xC283 } }

/-- A conversion ended; none did. -/
theorem witness_FreeRunSpendsNoOlderConversion :
    Ready { freeRunning with answers := [goodEnded 2] } ∧ Succeeds (goodEnded 2) ∧ (goodEnded 2).convEnded = true ∧
    freeRunning.device.freeRuns = true ∧ Ready freeRunning ∧ Succeeds (good 1) ∧ (good 1).convEnded = false :=
  ⟨⟨rfl, rfl, rfl, rfl⟩, rfl, rfl, by decide, ⟨rfl, rfl, rfl, rfl⟩, rfl, rfl⟩

theorem witness_RunningAndTriggeredBothMayEnd :
    Ready freeRunning ∧ freeRunning.answers = [good 1, goodEnded 2, goodEnded 3, goodEnded 4] ∧ Succeeds (good 1) ∧
    Succeeds (goodEnded 2) ∧ Succeeds (goodEnded 3) ∧ Succeeds (goodEnded 4) ∧ freeRunning.device.cfgKnown = true ∧
    freeRunning.device.config.getLsbD 8 = false ∧ freeRunning.device.convPending = 0 ∧
    (0xC383 : Word).getLsbD 15 = true ∧ (0xC383 : Word).getLsbD 8 = true ∧ (good 1).convEnded = false ∧
    (goodEnded 2).convEnded = true ∧ (goodEnded 2).spent ≤ 1 ∧ (goodEnded 3).convEnded = true ∧
    (goodEnded 4).convEnded = true :=
  ⟨⟨rfl, rfl, rfl, rfl⟩, rfl, rfl, rfl, rfl, rfl, rfl, by decide, rfl, by decide, by decide, rfl, rfl, by decide, rfl, rfl⟩

/-- A word that is no INIT is not taken for one. -/
theorem reset_not_init (s : State) : ¬TakesInit (asked 0x90000000 s) := by
  rintro ⟨-, r, rest, b, g, a, q, hp, hd⟩
  cases hp
  have : decode 0x90000000 = .instr .reset := by decide
  rw [this] at hd
  cases hd

theorem witness_InvariantKeptByStep :
    MachineInv (asked 0x90000000 (ready [])) ∧ ∃ t, step (asked 0x90000000 (ready [])) = .next t := by
  refine ⟨⟨⟨rfl, rfl⟩, rfl, ⟨by decide, by decide, by decide, by decide⟩, by decide⟩, ?_⟩
  exact ⟨_, rfl⟩

theorem witness_ConstructionValuesFixed :
    Instr.op (.rdss 4) ≠ .init ∧ (∃ t, exec (.rdss 4) sharedState = .next t) ∧
    ¬TakesInit (asked 0x90000000 (ready [])) ∧ ∃ t, step (asked 0x90000000 (ready [])) = .next t :=
  ⟨by decide, ⟨_, rfl⟩, reset_not_init _, ⟨_, rfl⟩⟩

theorem witness_HandleClosedOnce :
    Instr.op .reset ≠ .init ∧ (∃ t, exec .reset (ready []) = .next t) ∧
    { ready [] with isOpen := false }.isOpen = false ∧ (∃ t, exec .reset { ready [] with isOpen := false } = .next t) ∧
    ¬TakesInit (asked 0x90000000 (ready [])) ∧ ∃ t, step (asked 0x90000000 (ready [])) = .next t :=
  ⟨by decide, ⟨_, rfl⟩, rfl, ⟨_, rfl⟩, reset_not_init _, ⟨_, rfl⟩⟩

theorem witness_TransactionsGoToOwnDevice :
    (∃ t, exec (.wrcfg 0) (ready [good 0]) = .next t) ∧ ∃ t, step (waiting .afterSettle (good 7)) = .next t :=
  ⟨⟨_, rfl⟩, ⟨_, rfl⟩⟩

/-- A command that gives a next state, one that is stuck, one that is refused. -/
theorem witness_NoStickyStatus :
    (∃ t, exec .rdcfg (ready [good 0]) = .next t) ∧
    exec .rdcfg { ready [] with phase := .settle } = .fault (.notIdle .settle) ∧
    exec .rdcfg State.reset = .refused .noInstance := ⟨⟨_, rfl⟩, rfl, rfl⟩

theorem witness_ShadowNeverRead :
    (∃ t, exec .rdcfg (ready [good 0]) = .next t) ∧
    exec .rdcfg { ready [] with phase := .settle } = .fault (.notIdle .settle) ∧
    exec .rdcfg State.reset = .refused .noInstance := ⟨⟨_, rfl⟩, rfl, rfl⟩

theorem witness_HysteresisAsWritten : (0 : Rat) < 1 / 10 ∧ (-1 : Int) < 0 := by decide +kernel

end Sys2Proof.Tests
end

/-! ## Proofs: the whole-machine rules (family 10_state.md) -/

namespace Sys2Proof.Machine

/-! ### What a command or a step can do, INIT included: elementary moves, or a construction after them -/

/-- `t` is what a construction leaves where nothing is suspended, after some elementary moves (41_sequencer.md R141; log 13). -/
def Constructs (s t : State) : Prop :=
  ∃ u busIdx gain addr rate, Moves s u ∧ u.suspended = none ∧
    t = (construct busIdx gain addr rate u).respond (.ok .none)

theorem Constructs.after_moves {s u t : State} (h : Moves s u) (k : Constructs u t) : Constructs s t := by
  obtain ⟨v, b, g, a, r, hv, hs, ht⟩ := k
  exact ⟨v, b, g, a, r, h.trans hv, hs, ht⟩

/-- Moves before a command's own moves or construction. -/
theorem Moves.andThen {s u t : State} (h : Moves s u) (k : Moves u t ∨ Constructs u t) : Moves s t ∨ Constructs s t :=
  k.imp h.trans (Constructs.after_moves h)

theorem takeRequest_moves (r : Request) (rest : List Request) (s : State) : Moves s (takeRequest r rest s) :=
  (Moves.one (.taken s rest)).tail (.agent _ r.agent)

theorem endSuspended_suspended (s : State) : (endSuspended s).suspended = none := by
  unfold endSuspended
  split
  · next p _ =>
    obtain ⟨-, -, h, -, -⟩ := resume_ended s p
    exact h
  · next h => exact h

/-- An INIT that gives a next state is answered with a ConfigurationError, or ends in a construction. -/
theorem execInit_cases {s t : State} {busIdx : Nat} {gain : BitVec 3} {addr : BitVec 8} {rate : Nat}
    (h : exec (.init busIdx gain addr rate) s = .next t) :
    (∃ what, t = raiseConfiguration what s) ∨ Constructs s t := by
  obtain ⟨-, rfl⟩ := (needNoInstance_eq_next s).1 h
  rcases initSteps_cases s busIdx gain addr rate with ⟨what, h⟩ | ⟨g, a, r, h⟩
  · exact .inl ⟨what, h⟩
  · exact .inr ⟨_, _, _, _, _, endSuspended_moves s, endSuspended_suspended s, h⟩

theorem exec_moves_or_constructs {i : Instr} {s t : State} (h : exec i s = .next t) : Moves s t ∨ Constructs s t := by
  by_cases hi : i.op = .init
  · cases i <;> simp only [Instr.op, reduceCtorEq] at hi
    rcases execInit_cases h with ⟨what, rfl⟩ | hc
    · exact .inl (.one (.configurationError s what))
    · exact .inr hc
  · exact .inl (exec_moves hi h)

theorem takeNext_moves_or_constructs {s t : State} (h : takeNext s = .next t) : Moves s t ∨ Constructs s t := by
  rcases takeNext_cases s h with ⟨-, rfl⟩ | ⟨r, rest, i, -, -, he⟩ | ⟨r, rest, what, -, rfl⟩
  · exact .inl .refl
  · exact (takeRequest_moves r rest s).andThen (exec_moves_or_constructs he)
  · exact .inl ((takeRequest_moves r rest s).tail (.configurationError _ what))

theorem step_moves_or_constructs {s t : State} (h : step s = .next t) : Moves s t ∨ Constructs s t := by
  rcases step_cases s h with ⟨p, -, -, rfl⟩ | ⟨-, h⟩ | ⟨p, -, -, h⟩
  · exact .inl ((Moves.one (.gapUsed s)).trans (resume_moves p _))
  · exact takeNext_moves_or_constructs h
  · exact (Moves.one (.gapUsed s)).andThen (takeNext_moves_or_constructs h)

/-! ### The construction values (10_state.md R20) -/

/-- The construction values, LOCK_SCOPE and `made` are the same in both states. -/
def ConstructionKept (s t : State) : Prop :=
  t.addr = s.addr ∧ t.busIdx = s.busIdx ∧ t.gain = s.gain ∧ t.rate = s.rate ∧ t.scope = s.scope ∧ t.made = s.made

theorem ConstructionKept.refl (s : State) : ConstructionKept s s := ⟨rfl, rfl, rfl, rfl, rfl, rfl⟩

theorem ConstructionKept.trans (s t u : State) (h : ConstructionKept s t) (k : ConstructionKept t u) :
    ConstructionKept s u := by
  obtain ⟨h1, h2, h3, h4, h5, h6⟩ := h
  obtain ⟨k1, k2, k3, k4, k5, k6⟩ := k
  exact ⟨k1.trans h1, k2.trans h2, k3.trans h3, k4.trans h4, k5.trans h5, k6.trans h6⟩

theorem Move.constructionKept (s t : State) (h : Move s t) : ConstructionKept s t := by
  cases h with
  | write a w ans =>
    obtain ⟨d, l, hframe⟩ := busWrite_frame s a w ans
    rw [hframe]
    exact .refl s
  | read a i ans =>
    obtain ⟨d, hframe⟩ := busRead_frame s a i ans
    rw [hframe]
    exact .refl s
  | _ => exact .refl s

theorem Moves.constructionKept {s t : State} (h : Moves s t) : ConstructionKept s t :=
  h.keeps ConstructionKept.refl ConstructionKept.trans Move.constructionKept

/-- Settles O51: no elementary move writes a construction value, and a command or step without INIT is a chain of moves. -/
theorem constructionValuesFixed : Obligations.ConstructionValuesFixed :=
  ⟨fun _ _ _ hi h => (exec_moves hi h).constructionKept, fun s _ hn h => (step_moves s hn h).constructionKept⟩

/-! ### The bus handle (10_state.md R26) -/

/-- A released handle stays released, and the calls of `close()` grow by one exactly where the handle is released. -/
def HandleKept (s t : State) : Prop :=
  (s.isOpen = false → t.isOpen = false) ∧
    t.busLog.countP isClose = s.busLog.countP isClose + (if s.isOpen && !t.isOpen then 1 else 0)

theorem HandleKept.of_open_eq {s t : State} (ho : t.isOpen = s.isOpen)
    (hl : t.busLog.countP isClose = s.busLog.countP isClose) : HandleKept s t := by
  simp [HandleKept, ho, hl]

theorem HandleKept.refl (s : State) : HandleKept s s := .of_open_eq rfl rfl

/-- Of two stretches at most one releases the handle. -/
theorem HandleKept.trans (s t u : State) (h : HandleKept s t) (k : HandleKept t u) : HandleKept s u := by
  obtain ⟨hs, hc⟩ := h
  obtain ⟨ks, kc⟩ := k
  refine ⟨ks ∘ hs, kc.trans ?_⟩
  rw [hc]
  cases ht : t.isOpen
  · simp [ks ht]
  · cases hso : s.isOpen
    · simp [hs hso] at ht
    · simp

theorem Move.handleKept (s t : State) (h : Move s t) : HandleKept s t := by
  cases h with
  | write a w ans =>
    obtain ⟨d, l, hframe⟩ := busWrite_frame s a w ans
    rw [hframe]
    exact .of_open_eq rfl (by simp [busEvent, isClose])
  | read a i ans =>
    obtain ⟨d, hframe⟩ := busRead_frame s a i ans
    rw [hframe]
    exact .of_open_eq rfl (by simp [busEvent, isClose])
  | wait a => exact .of_open_eq rfl (by simp [isClose])
  | close a hopen => simp [HandleKept, busClose, List.countP_cons, busEvent, isClose, hopen]
  | _ => exact .of_open_eq rfl rfl

theorem Moves.handleKept {s t : State} (h : Moves s t) : HandleKept s t :=
  h.keeps HandleKept.refl HandleKept.trans Move.handleKept

/-- Settles O52: the only move that calls `close()` is made on an open handle and releases it. -/
theorem handleClosedOnce : Obligations.HandleClosedOnce :=
  ⟨fun _ _ _ hi h => (exec_moves hi h).handleKept, fun s _ hn h => (step_moves s hn h).handleKept⟩

/-! ### The target of the transactions (10_state.md R21, R22) -/

/-- The bus log is the earlier one with events on the block's own target in front. -/
def LogExtended (s t : State) : Prop :=
  ∃ new, t.busLog = new ++ s.busLog ∧ ∀ e ∈ new, onTarget s.busIdx s.addr e = true

theorem LogExtended.of_log_eq {s t : State} (h : t.busLog = s.busLog) : LogExtended s t := ⟨[], h, nofun⟩

theorem LogExtended.of_event {s t : State} {e : BusEvent} (h : t.busLog = e :: s.busLog)
    (he : onTarget s.busIdx s.addr e = true) : LogExtended s t := ⟨[e], h, by simpa using he⟩

/-- Two stretches on the same target. -/
theorem LogExtended.trans {s t u : State} (h : LogExtended s t) (hc : ConstructionKept s t) (k : LogExtended t u) :
    LogExtended s u := by
  obtain ⟨new, hl, hn⟩ := h
  obtain ⟨later, kl, kn⟩ := k
  obtain ⟨ha, hb, -⟩ := hc
  rw [ha, hb] at kn
  refine ⟨later ++ new, by rw [kl, hl, List.append_assoc], fun e he => ?_⟩
  exact (List.mem_append.1 he).elim (kn e) (hn e)

theorem onTarget_busEvent (s : State) (a : Agent) (c : BusCall) : onTarget s.busIdx s.addr (busEvent s a c) = true := by
  simp [onTarget, busEvent]

theorem Move.logExtended {s t : State} (h : Move s t) : LogExtended s t := by
  cases h with
  | write a w ans =>
    obtain ⟨d, l, hframe⟩ := busWrite_frame s a w ans
    rw [hframe]
    exact .of_event rfl (onTarget_busEvent ..)
  | read a i ans =>
    obtain ⟨d, hframe⟩ := busRead_frame s a i ans
    rw [hframe]
    exact .of_event rfl (onTarget_busEvent ..)
  | wait a => exact .of_event rfl rfl
  | close a => exact .of_event rfl (onTarget_busEvent ..)
  | _ => exact .of_log_eq rfl

theorem Moves.logExtended {s t : State} (h : Moves s t) : LogExtended s t := by
  induction h with
  | refl => exact .of_log_eq rfl
  | tail hm h ih => exact ih.trans (Moves.constructionKept hm) h.logExtended

/-- A construction makes no transaction: what stands on the bus came of the moves before it. -/
theorem Constructs.logExtended {s t : State} (h : Constructs s t) : LogExtended s t := by
  obtain ⟨u, b, g, a, r, hm, -, rfl⟩ := h
  exact hm.logExtended.trans hm.constructionKept (.of_log_eq rfl)

/-- Settles O53: each move that logs an event logs it on the target the state holds, which no move changes. -/
theorem transactionsGoToOwnDevice : Obligations.TransactionsGoToOwnDevice :=
  ⟨fun _ _ _ h => (exec_moves_or_constructs h).elim Moves.logExtended Constructs.logExtended,
    fun _ _ h => (step_moves_or_constructs h).elim Moves.logExtended Constructs.logExtended⟩

/-! ### The invariant: what is on the bus and what is known of the device -/

/-- No move writes an index but 0x01 (20_memory.md R64). -/
theorem Move.logInMap {s t : State} (h : Move s t) (hs : LogInMap s) : LogInMap t := by
  cases h with
  | write a w ans =>
    obtain ⟨d, l, hframe⟩ := busWrite_frame s a w ans
    rw [hframe]
    simpa [LogInMap, busEvent, eventInMap] using hs
  | read a i ans =>
    obtain ⟨d, hframe⟩ := busRead_frame s a i ans
    rw [hframe]
    simpa [LogInMap, busEvent, eventInMap] using hs
  | wait a => simpa [LogInMap, eventInMap] using hs
  | close a => simpa [LogInMap, busClose, busEvent, eventInMap] using hs
  | _ => exact hs

theorem Moves.logInMap {s t : State} (h : Moves s t) (hs : LogInMap s) : LogInMap t := by
  induction h with
  | refl => exact hs
  | tail _ h ih => exact h.logInMap ih

/-- A word in the device, and a conversion that can end, came by some agent's write. -/
def WriterKnown (d : Device) : Prop :=
  (d.convPending ≠ 0 → d.writer.isSome = true) ∧ (d.cfgKnown = true → d.writer.isSome = true)

/-- What begins no conversion and leaves the config register alone keeps it. -/
theorem WriterKnown.mono {d e : Device} (h : WriterKnown d) (hp : e.convPending ≤ d.convPending)
    (hc : e.cfgKnown = d.cfgKnown) (hw : e.writer = d.writer) : WriterKnown e := by
  obtain ⟨h1, h2⟩ := h
  rw [WriterKnown, hc, hw]
  exact ⟨fun he => h1 (by omega), h2⟩

/-- A device that some agent wrote to. -/
theorem WriterKnown.of_writer {d : Device} (h : d.writer.isSome = true) : WriterKnown d := ⟨fun _ => h, fun _ => h⟩

/-- `DeviceKnowledge` for a state whose log holds a config write: of the log nothing remains to be said. -/
theorem deviceKnowledge_of_written {s : State} (hl : s.busLog.any isConfigWrite = true)
    (hc : s.lastCfg.isSome = true → s.device.cfgKnown = true) (hw : WriterKnown s.device) : DeviceKnowledge s :=
  ⟨hc, hw.1, hw.2, fun _ => hl⟩

/-- Where the log only grows and the device begins no conversion and keeps its config word, what is known hangs together. -/
theorem DeviceKnowledge.mono {s t : State} (h : DeviceKnowledge s) (hl : t.lastCfg = s.lastCfg)
    (hp : t.device.convPending ≤ s.device.convPending) (hc : t.device.cfgKnown = s.device.cfgKnown)
    (hw : t.device.writer = s.device.writer)
    (hb : s.busLog.any isConfigWrite = true → t.busLog.any isConfigWrite = true) : DeviceKnowledge t := by
  obtain ⟨h1, h2, h3, h4⟩ := h
  obtain ⟨k2, k3⟩ := WriterKnown.mono (e := t.device) ⟨h2, h3⟩ hp hc hw
  exact ⟨by rw [hl, hc]; exact h1, k2, k3, by rw [hw]; exact hb ∘ h4⟩

theorem afterFailedWrite_writerKnown {d : Device} (h : WriterKnown d) (a : Agent) (w : Word) (ans : BusAnswer) :
    WriterKnown (d.afterFailedWrite a w ans) := by
  unfold Device.afterFailedWrite Device.triggered
  split
  · exact .of_writer rfl
  split
  · exact .of_writer rfl
  · exact h

/-- A write is on the bus, and whatever reached the device or was triggered by it is its agent's (R54, R56). -/
theorem busWrite_deviceKnowledge {s : State} (h : DeviceKnowledge s) (a : Agent) (w : Word) (ans : BusAnswer) :
    DeviceKnowledge (busWrite a w ans s) := by
  obtain ⟨hcfg, hpend, hknown, -⟩ := h
  have hd : WriterKnown (s.device.acts ans) :=
    WriterKnown.mono ⟨hpend, hknown⟩ (s.device.acts_convPending_le ans) (by simp) (by simp)
  unfold busWrite
  split
  · exact deviceKnowledge_of_written (by simp [busEvent, isConfigWrite]) (fun _ => rfl) (.of_writer rfl)
  · refine deviceKnowledge_of_written (by simp [busEvent, isConfigWrite]) (fun hl => ?_)
      (afterFailedWrite_writerKnown hd a w ans)
    have : s.device.cfgKnown = true := hcfg hl
    simp [Device.afterFailedWrite_config, this]

theorem busRead_deviceKnowledge {s : State} (h : DeviceKnowledge s) (a : Agent) (i : RegIdx) (ans : BusAnswer) :
    DeviceKnowledge (busRead a i ans s) := by
  have hp := s.device.acts_convPending_le ans
  unfold busRead
  split
  · exact h.mono rfl (by simpa using hp) (by simp) (by simp) (by simp +contextual)
  · exact h.mono rfl (by simpa using hp) (by simp) (by simp) (by simp +contextual)

theorem Move.deviceKnowledge {s t : State} (h : Move s t) (hs : DeviceKnowledge s) : DeviceKnowledge t := by
  cases h with
  | write a w ans => exact busWrite_deviceKnowledge hs a w ans
  | read a i ans => exact busRead_deviceKnowledge hs a i ans
  | wait a => exact hs.mono rfl le_rfl rfl rfl (by simp +contextual)
  | waited =>
    exact hs.mono rfl (s.device.settled_convPending_le _) (s.device.settled_cfgKnown _) (s.device.settled_writer _) id
  | close a => exact hs.mono rfl le_rfl rfl rfl (by simp +contextual [busClose])
  | _ => exact hs

theorem Moves.deviceKnowledge {s t : State} (h : Moves s t) (hs : DeviceKnowledge s) : DeviceKnowledge t := by
  induction h with
  | refl => exact hs
  | tail _ h ih => exact h.deviceKnowledge ih

theorem Constructs.logInMap {s t : State} (h : Constructs s t) (hs : LogInMap s) : LogInMap t := by
  obtain ⟨u, b, g, a, r, hm, -, rfl⟩ := h
  exact hm.logInMap hs

/-- A construction forgets the device (10_state.md R39). -/
theorem Constructs.deviceKnowledge {s t : State} (h : Constructs s t) : DeviceKnowledge t := by
  obtain ⟨u, b, g, a, r, -, -, rfl⟩ := h
  exact ⟨nofun, fun h => absurd rfl h, nofun, nofun⟩

/-! ### The invariant: no command in progress, and suspension -/

/-- No command is in progress, and one is suspended only where it may be. -/
def Quiescent (s : State) : Prop := AtRest s ∧ SuspensionLegal s

/-- A command that has ended leaves the machine at rest; what is suspended after it was so before. -/
theorem Ended.quiescent {s t : State} (h : Ended s t) (hl : SuspensionLegal s) : Quiescent t := by
  refine ⟨⟨h.phase, h.lock⟩, ?_⟩
  rw [SuspensionLegal, h.suspended, h.scope]
  exact hl

theorem gap_scope (s : State) : (gap s).scope = s.scope := by
  obtain ⟨-, -, -, -, h, -⟩ := (gap_moves s).constructionKept
  exact h

/-- Only under `perAccess` can a gap leave a command suspended. -/
theorem gap_suspensionLegal {s : State} (h : SuspensionLegal s) : SuspensionLegal (gap s) := by
  cases hs : s.scope with
  | perAccess => intro _; rw [gap_scope, hs]
  | perCommand => rw [gap_perCommand s hs]; exact h

/-- A command with two accesses leaves the machine at rest, whether its first access ended it or its rest did. -/
theorem FirstDone.throughGap_quiescent {s u : State} {r : Option Rest} (h : FirstDone s u r) (hl : SuspensionLegal s) :
    Quiescent (throughGap r u) := by
  have hu : SuspensionLegal u := by rw [SuspensionLegal, h.suspended, h.scope]; exact hl
  cases r with
  | none =>
    obtain ⟨hlock, hphase⟩ := h.ended rfl
    exact ⟨⟨hphase, hlock⟩, hu⟩
  | some r => exact (finishRest_ended (gap u) r).quiescent (gap_suspensionLegal hu)

theorem Constructs.quiescent {s t : State} (h : Constructs s t) : Quiescent t := by
  obtain ⟨u, b, g, a, r, -, hs, rfl⟩ := h
  refine ⟨⟨rfl, rfl⟩, fun hsome => ?_⟩
  rw [show ((construct b g a r u).respond (.ok .none)).suspended = u.suspended from rfl, hs] at hsome
  cases hsome

/-- What each codec operation delivers is one response, and nothing else changes (40_codec.md R120). -/
theorem codecSteps_respond (s : State) :
    (∀ mux pga mode dr, ∃ r, encodeSteps mux pga mode dr s = s.respond r) ∧
    (∀ w, ∃ r, decodeSteps w s = s.respond r) ∧ (∀ f w, ∃ r, getfSteps f w s = s.respond r) ∧
    (∀ f v w, ∃ r, setfSteps f v w s = s.respond r) := by
  refine ⟨fun mux pga mode dr => ?_, fun w => ⟨_, rfl⟩, fun f w => ⟨_, rfl⟩, fun f v w => ?_⟩
  · unfold encodeSteps; split <;> exact ⟨_, rfl⟩
  · unfold setfSteps; split <;> exact ⟨_, rfl⟩

/-- How a command ends that gives a next state: it only responds, or runs to its end in one access, or makes a first access
and goes through the gap, or constructs. -/
theorem exec_end_cases {i : Instr} {s t : State} (h : exec i s = .next t) :
    (∃ r, t = s.respond r) ∨ Ended s t ∨ (∃ r u, FirstDone s u r ∧ t = throughGap r u) ∨ Constructs s t := by
  obtain ⟨hEncode, hDecode, hGetf, hSetf⟩ := codecSteps_respond s
  cases i with
  | encode mux pga mode dr => obtain ⟨-, rfl⟩ := (needCodec_eq_next s).1 h; exact .inl (hEncode mux pga mode dr)
  | decode w => obtain ⟨-, rfl⟩ := (needCodec_eq_next s).1 h; exact .inl (hDecode w)
  | getf f w => obtain ⟨-, rfl⟩ := (needCodec_eq_next s).1 h; exact .inl (hGetf f w)
  | setf f v w => obtain ⟨-, rfl⟩ := (needCodec_eq_next s).1 h; exact .inl (hSetf f v w)
  | wrcfg w => obtain ⟨-, -, rfl⟩ := (needOpen_eq_next s).1 h; exact .inr (.inl (wrcfgSteps_ended s w))
  | rdcfg => obtain ⟨-, -, rfl⟩ := (needOpen_eq_next s).1 h; exact .inr (.inl (finishRead_ended s ..))
  | rdconv => obtain ⟨-, -, rfl⟩ := (needOpen_eq_next s).1 h; exact .inr (.inl (finishRead_ended s ..))
  | rdthr =>
    obtain ⟨-, -, ht⟩ := (needOpen_eq_next s).1 h
    exact .inr (.inr (.inl ⟨_, _, rdthrFirst_done s, ht⟩))
  | rdss m =>
    obtain ⟨-, -, ht⟩ := (needOpen_eq_next s).1 h
    exact .inr (.inr (.inl ⟨_, _, rdssFirst_done s m, ht⟩))
  | reset => obtain ⟨-, -, rfl⟩ := (needMade_eq_next s).1 h; exact .inr (.inl (resetSteps_ended s))
  | init b g a r =>
    rcases execInit_cases h with ⟨what, rfl⟩ | hc
    · exact .inl ⟨_, rfl⟩
    · exact .inr (.inr (.inr hc))

theorem exec_quiescent {i : Instr} {s t : State} (hs : Quiescent s) (h : exec i s = .next t) : Quiescent t := by
  rcases exec_end_cases h with ⟨r, rfl⟩ | he | ⟨r, u, hf, rfl⟩ | hc
  · exact hs
  · exact he.quiescent hs.2
  · exact hf.throughGap_quiescent hs.2
  · exact hc.quiescent

theorem takeNext_quiescent {s t : State} (hs : Quiescent s) (h : takeNext s = .next t) : Quiescent t := by
  rcases takeNext_cases s h with ⟨-, rfl⟩ | ⟨r, rest, i, -, -, he⟩ | ⟨r, rest, what, -, rfl⟩
  · exact hs
  · exact exec_quiescent (s := takeRequest r rest s) hs he
  · exact hs

/-- A suspended command that goes on from rest leaves rest behind, and nothing suspended. -/
theorem resume_quiescent {s : State} (hs : AtRest s) (p : Suspended) : Quiescent (resume p s) := by
  obtain ⟨hlock, hphase, hsusp, -, -⟩ := resume_ended s p
  refine ⟨⟨hphase.trans hs.1, hlock⟩, fun hsome => ?_⟩
  rw [hsusp] at hsome
  cases hsome

theorem step_quiescent {s t : State} (hs : Quiescent s) (h : step s = .next t) : Quiescent t := by
  rcases step_cases s h with ⟨p, -, -, rfl⟩ | ⟨-, h⟩ | ⟨p, -, -, h⟩
  · exact resume_quiescent (s := dropGap s) hs.1 p
  · exact takeNext_quiescent hs h
  · exact takeNext_quiescent (s := dropGap s) hs h

/-- Settles O50: rest and legal suspension by how each command ends; the bus log and the knowledge of the device because
every elementary move keeps them and a construction forgets the device. -/
theorem invariantKeptByStep : Obligations.InvariantKeptByStep := by
  intro s t ⟨hrest, hlog, hdev, hsusp⟩ h
  obtain ⟨trest, tsusp⟩ := step_quiescent ⟨hrest, hsusp⟩ h
  rcases step_moves_or_constructs h with hm | hc
  · exact ⟨trest, hm.logInMap hlog, hm.deviceKnowledge hdev, tsusp⟩
  · exact ⟨trest, hc.logInMap hlog, hc.deviceKnowledge, tsusp⟩

/-- Settles O49: at reset nothing is in progress, on the bus, known or suspended. -/
theorem invariantAtReset : Obligations.InvariantAtReset :=
  ⟨⟨rfl, rfl⟩, rfl, ⟨nofun, fun h => absurd rfl h, nofun, nofun⟩, nofun⟩

/-- Settles O23: the reset state's fields as defined. -/
theorem resetStateValues : Obligations.ResetStateValues := by
  unfold Obligations.ResetStateValues
  exact ⟨rfl, rfl, rfl, rfl, rfl, rfl, rfl, rfl⟩

end Sys2Proof.Machine

/-! ## Proofs: no command reads the earlier responses or `lastCfg` -/

namespace Sys2Proof.Machine

/-- What came before a run and no command may look at: the earlier responses, and the configuration written last. -/
structure Past where
  delivered : List Delivery
  lastCfg : Option Word

/-- The state with a past under what it has itself: the earlier responses behind its own, the earlier `lastCfg` where it has
none. -/
def State.withPast (s : State) (p : Past) : State :=
  { s with delivered := s.delivered ++ p.delivered, lastCfg := s.lastCfg.or p.lastCfg }

/-- What an instruction answers, with a past under its next state. -/
def nextWithPast (p : Past) : Host.Outcome State Fault Refusal → Host.Outcome State Fault Refusal
  | .next t => .next (t.withPast p)
  | .fault f => .fault f
  | .refused r => .refused r

section Operations

variable (s : State) (p : Past)

/-! ### The other fields do not see the past -/

@[simp] theorem State.withPast_made : (s.withPast p).made = s.made := rfl
@[simp] theorem State.withPast_isOpen : (s.withPast p).isOpen = s.isOpen := rfl
@[simp] theorem State.withPast_phase : (s.withPast p).phase = s.phase := rfl
@[simp] theorem State.withPast_lock : (s.withPast p).lock = s.lock := rfl
@[simp] theorem State.withPast_scope : (s.withPast p).scope = s.scope := rfl
@[simp] theorem State.withPast_port : (s.withPast p).port = s.port := rfl
@[simp] theorem State.withPast_who : (s.withPast p).who = s.who := rfl
@[simp] theorem State.withPast_suspended : (s.withPast p).suspended = s.suspended := rfl

/-! ### The operations do with a past what they do without it -/

@[simp] theorem setPhase_withPast (x : Phase) : (s.withPast p).setPhase x = (s.setPhase x).withPast p := rfl
@[simp] theorem setLock_withPast (l : Lock) : (s.withPast p).setLock l = (s.setLock l).withPast p := rfl
@[simp] theorem logEvent_withPast (e : BusEvent) : (s.withPast p).logEvent e = (s.logEvent e).withPast p := rfl
@[simp] theorem respond_withPast (r : Response) : (s.withPast p).respond r = (s.respond r).withPast p := rfl
@[simp] theorem nextAnswer_withPast : nextAnswer (s.withPast p) = nextAnswer s := rfl
@[simp] theorem dropAnswer_withPast : dropAnswer (s.withPast p) = (dropAnswer s).withPast p := rfl
@[simp] theorem nextGap_withPast : nextGap (s.withPast p) = nextGap s := rfl
@[simp] theorem dropGap_withPast : dropGap (s.withPast p) = (dropGap s).withPast p := rfl
@[simp] theorem acquire_withPast : acquire (s.withPast p) = (acquire s).withPast p := rfl
@[simp] theorem busClose_withPast (a : Agent) : busClose a (s.withPast p) = (busClose a s).withPast p := rfl
@[simp] theorem beginWait_withPast : beginWait (s.withPast p) = (beginWait s).withPast p := rfl
@[simp] theorem endWait_withPast : endWait (s.withPast p) = (endWait s).withPast p := rfl
@[simp] theorem memWriteError_withPast : memWriteError (s.withPast p) = memWriteError s := rfl
@[simp] theorem memReadResult_withPast (i : RegIdx) : memReadResult i (s.withPast p) = memReadResult i s := rfl
@[simp] theorem singleShotWord_withPast (m : BitVec 3) : singleShotWord m (s.withPast p) = singleShotWord m s := rfl

@[simp] theorem busWrite_withPast (a : Agent) (w : Word) (ans : BusAnswer) :
    busWrite a w ans (s.withPast p) = (busWrite a w ans s).withPast p := by
  unfold busWrite; split <;> rfl

@[simp] theorem busRead_withPast (a : Agent) (i : RegIdx) (ans : BusAnswer) :
    busRead a i ans (s.withPast p) = (busRead a i ans s).withPast p := by
  unfold busRead; split <;> rfl

@[simp] theorem release_withPast : release (s.withPast p) = (release s).withPast p := by
  by_cases h : s.lock = .held s.who <;> simp [release, h]

@[simp] theorem releaseAccess_withPast : releaseAccess (s.withPast p) = (releaseAccess s).withPast p := by
  simp only [releaseAccess, State.withPast_scope]
  split
  · exact release_withPast s p
  · rfl

@[simp] theorem memWrite_withPast (w : Word) : memWrite w (s.withPast p) = (memWrite w s).withPast p := by
  simp [memWrite]

@[simp] theorem memRead_withPast (i : RegIdx) : memRead i (s.withPast p) = (memRead i s).withPast p := by
  simp [memRead]

@[simp] theorem complete_withPast (x : Payload) : complete x (s.withPast p) = (complete x s).withPast p := by
  simp [complete, endCommand]

@[simp] theorem raiseError_withPast (k : ErrKind) : raiseError k (s.withPast p) = (raiseError k s).withPast p := by
  simp [raiseError, endCommand]

@[simp] theorem raiseConfiguration_withPast (what : Operand) :
    raiseConfiguration what (s.withPast p) = (raiseConfiguration what s).withPast p := rfl

/-! ### The steps of the commands -/

@[simp] theorem encodeSteps_withPast (mux pga : BitVec 3) (mode : BitVec 1) (dr : BitVec 3) :
    encodeSteps mux pga mode dr (s.withPast p) = (encodeSteps mux pga mode dr s).withPast p := by
  unfold encodeSteps; split <;> rfl

@[simp] theorem decodeSteps_withPast (w : Word) : decodeSteps w (s.withPast p) = (decodeSteps w s).withPast p := rfl

@[simp] theorem getfSteps_withPast (f : Field) (w : Word) :
    getfSteps f w (s.withPast p) = (getfSteps f w s).withPast p := rfl

@[simp] theorem setfSteps_withPast (f : Field) (v : BitVec 3) (w : Word) :
    setfSteps f v w (s.withPast p) = (setfSteps f v w s).withPast p := by
  unfold setfSteps; split <;> rfl

@[simp] theorem finishRead_withPast (x : Phase) (i : RegIdx) (result : Word → Payload) :
    finishRead x i result (s.withPast p) = (finishRead x i result s).withPast p := by
  simp only [finishRead, setPhase_withPast, memReadResult_withPast]; split <;> simp

@[simp] theorem wrcfgSteps_withPast (w : Word) : wrcfgSteps w (s.withPast p) = (wrcfgSteps w s).withPast p := by
  simp only [wrcfgSteps, setPhase_withPast, memWriteError_withPast]; split <;> simp

@[simp] theorem rdcfgSteps_withPast : rdcfgSteps (s.withPast p) = (rdcfgSteps s).withPast p := finishRead_withPast ..

@[simp] theorem rdconvSteps_withPast : rdconvSteps (s.withPast p) = (rdconvSteps s).withPast p := finishRead_withPast ..

@[simp] theorem rdthrFirst_withPast : rdthrFirst (s.withPast p) = (rdthrFirst s).withPast p := by
  simp only [rdthrFirst, setPhase_withPast, memReadResult_withPast]; split <;> simp

@[simp] theorem rdthrRest_withPast : rdthrRest (s.withPast p) = rdthrRest s := rfl

@[simp] theorem rdssFirst_withPast (m : BitVec 3) : rdssFirst m (s.withPast p) = (rdssFirst m s).withPast p := by
  simp only [rdssFirst, singleShotWord_withPast, setPhase_withPast, memWriteError_withPast]; split <;> simp

@[simp] theorem rdssRest_withPast : rdssRest (s.withPast p) = rdssRest s := rfl

@[simp] theorem finishRest_withPast (r : Rest) : finishRest r (s.withPast p) = (finishRest r s).withPast p := by
  cases r <;> simp [finishRest]

@[simp] theorem resetSteps_withPast : resetSteps (s.withPast p) = (resetSteps s).withPast p := by
  cases h : (acquire s).isOpen <;> simp [resetSteps, h]

/-! ### The other agent -/

@[simp] theorem resume_withPast (x : Suspended) : resume x (s.withPast p) = (resume x s).withPast p := by
  have h := finishRest_withPast { s with who := x.agent, suspended := none } p x.rest
  simp only [resume]
  exact congrArg (fun t : State => { t with who := s.who, phase := s.phase }) h

/-- A command that begins where the handle is open begins alike, if its steps do. -/
theorem beginOpen_withPast {t u : State} (h : u = t.withPast p) :
    (if (s.withPast p).isOpen then some u else none) = (if s.isOpen then some t else none).map (·.withPast p) := by
  cases ho : s.isOpen <;> simp [ho, h]

/-- What remains of a command is recorded alike, if its first access is made alike. -/
theorem suspend_withPast {t u : State} (h : u = t.withPast p) (x : Option Suspended) :
    { u with suspended := x } = { t with suspended := x }.withPast p := by
  subst h; rfl

@[simp] theorem beginCommand_withPast (i : Instr) :
    beginCommand i (s.withPast p) = (beginCommand i s).map (·.withPast p) := by
  cases i with
  | encode mux pga mode dr => exact beginOpen_withPast s p (encodeSteps_withPast s p mux pga mode dr)
  | decode w => exact beginOpen_withPast s p (decodeSteps_withPast s p w)
  | getf f w => exact beginOpen_withPast s p (getfSteps_withPast s p f w)
  | setf f v w => exact beginOpen_withPast s p (setfSteps_withPast s p f v w)
  | wrcfg w => exact beginOpen_withPast s p (wrcfgSteps_withPast s p w)
  | rdcfg => exact beginOpen_withPast s p (rdcfgSteps_withPast s p)
  | rdconv => exact beginOpen_withPast s p (rdconvSteps_withPast s p)
  | rdthr => exact beginOpen_withPast s p (suspend_withPast p (rdthrFirst_withPast s p) _)
  | rdss m => exact beginOpen_withPast s p (suspend_withPast p (rdssFirst_withPast s p m) _)
  | reset => exact congrArg some (resetSteps_withPast s p)
  | init busIdx gain addr rate => rfl

@[simp] theorem beginIllFormed_withPast (op : Op) (what : Operand) :
    beginIllFormed op what (s.withPast p) = (beginIllFormed op what s).map (·.withPast p) := by
  by_cases h : op = .reset ∨ (op ≠ .init ∧ s.isOpen = true) <;> simp [beginIllFormed, h]

@[simp] theorem beginWord_withPast (d : Decoded) :
    beginWord d (s.withPast p) = (beginWord d s).map (·.withPast p) := by
  unfold beginWord; split <;> simp

/-- The other agent's move where none of its commands is suspended and its next word at the port is `w`. -/
theorem otherMove_at_port {w : CmdWord} {rest : List Request} (hs : s.suspended = none)
    (ht : takeFirst (otherOf s.who) s.port = some (w, rest)) :
    otherMove s = ((beginWord (decode w) { s with who := otherOf s.who, phase := .idle, port := rest }).map
      fun t => { t with who := s.who, phase := s.phase }).getD s := by
  unfold otherMove
  split
  · next h => rw [hs] at h; cases h
  split
  · next h => rw [ht] at h; cases h
  · next h =>
    rw [ht] at h
    cases h
    split <;> next hb => rw [hb]; rfl

@[simp] theorem otherMove_withPast : otherMove (s.withPast p) = (otherMove s).withPast p := by
  cases hs : s.suspended with
  | some x => by_cases hx : x.agent = otherOf s.who <;> simp [otherMove, hs, hx]
  | none =>
    cases ht : takeFirst (otherOf s.who) s.port with
    | none => simp [otherMove, hs, ht]
    | some wr =>
      obtain ⟨w, rest⟩ := wr
      rw [otherMove_at_port (s.withPast p) hs ht, otherMove_at_port s hs ht]
      have hb := beginWord_withPast { s with who := otherOf s.who, phase := .idle, port := rest } p (decode w)
      refine (congrArg (fun o : Option State =>
        (o.map fun t => { t with who := s.who, phase := s.phase }).getD (s.withPast p)) hb).trans ?_
      cases beginWord (decode w) { s with who := otherOf s.who, phase := .idle, port := rest } <;> rfl

@[simp] theorem otherMoves_withPast (n : Nat) : otherMoves n (s.withPast p) = (otherMoves n s).withPast p := by
  induction n generalizing s with
  | zero => rfl
  | succ n ih => rw [otherMoves, otherMove_withPast, ih, otherMoves]

@[simp] theorem gap_withPast : gap (s.withPast p) = (gap s).withPast p := by
  cases h : s.scope <;> simp [gap, h]

@[simp] theorem throughGap_withPast (r : Option Rest) : throughGap r (s.withPast p) = (throughGap r s).withPast p := by
  cases r <;> simp [throughGap]

/-! ### Acceptance -/

theorem needLive_withPast {go go' : Host.Outcome State Fault Refusal} (h : go' = nextWithPast p go) :
    needLive (s.withPast p) go' = nextWithPast p (needLive s go) := by
  cases hm : s.made <;> cases ho : s.isOpen <;> simp [needLive, hm, ho, h, nextWithPast]

theorem needIdle_withPast {body : State → State} (h : body (s.withPast p) = (body s).withPast p) :
    needIdle (s.withPast p) body = nextWithPast p (needIdle s body) := by
  by_cases hp : s.phase = .idle <;> simp [needIdle, hp, h, nextWithPast]

theorem needCodec_withPast {body : State → State} (h : body (s.withPast p) = (body s).withPast p) :
    needCodec (s.withPast p) body = nextWithPast p (needCodec s body) :=
  needLive_withPast s p (congrArg _ h)

theorem needOpen_withPast {body : State → State} (h : body (s.withPast p) = (body s).withPast p) :
    needOpen (s.withPast p) body = nextWithPast p (needOpen s body) :=
  needLive_withPast s p (needIdle_withPast s p h)

theorem needMade_withPast {body : State → State} (h : body (s.withPast p) = (body s).withPast p) :
    needMade (s.withPast p) body = nextWithPast p (needMade s body) := by
  cases hm : s.made
  · simp [needMade, hm, nextWithPast]
  · simpa [needMade, hm] using needIdle_withPast s p h

/-- INIT gives `lastCfg` a value of its own, so what it may keep of a past is another past than it met. -/
theorem needNoInstance_withPast {body : State → State} {q : Past} (h : body (s.withPast p) = (body s).withPast q) :
    needNoInstance (s.withPast p) body = nextWithPast q (needNoInstance s body) := by
  cases hm : s.made && s.isOpen <;> simp [needNoInstance, hm, h, nextWithPast]

theorem endSuspended_withPast : endSuspended (s.withPast p) = (endSuspended s).withPast p := by
  cases h : s.suspended <;> simp [endSuspended, h]

/-- A construction keeps the earlier responses and no earlier `lastCfg`. -/
theorem construct_withPast (busIdx : Nat) (gain : Gain) (addr : DevAddr) (rate : BitVec 3) :
    construct busIdx gain addr rate (s.withPast p) =
      (construct busIdx gain addr rate s).withPast { p with lastCfg := none } := rfl

/-- INIT's steps keep the earlier responses, and of an earlier `lastCfg` all or nothing. -/
theorem initSteps_withPast (busIdx : Nat) (gain : BitVec 3) (addr : BitVec 8) (rate : Nat) :
    ∃ c, (p.lastCfg = none → c = none) ∧
      initSteps busIdx gain addr rate (s.withPast p) =
        (initSteps busIdx gain addr rate s).withPast { p with lastCfg := c } := by
  unfold initSteps
  split
  · exact ⟨p.lastCfg, id, rfl⟩
  split
  · exact ⟨p.lastCfg, id, rfl⟩
  split
  · exact ⟨none, fun _ => rfl, by rw [endSuspended_withPast, construct_withPast]; rfl⟩
  · exact ⟨p.lastCfg, id, rfl⟩

/-! ### Every command -/

theorem exec_withPast_of_not_init {i : Instr} (hi : i.op ≠ .init) :
    exec i (s.withPast p) = nextWithPast p (exec i s) := by
  cases i with
  | encode mux pga mode dr => exact needCodec_withPast s p (encodeSteps_withPast s p mux pga mode dr)
  | decode w => exact needCodec_withPast s p (decodeSteps_withPast s p w)
  | getf f w => exact needCodec_withPast s p (getfSteps_withPast s p f w)
  | setf f v w => exact needCodec_withPast s p (setfSteps_withPast s p f v w)
  | wrcfg w => exact needOpen_withPast s p (wrcfgSteps_withPast s p w)
  | rdcfg => exact needOpen_withPast s p (rdcfgSteps_withPast s p)
  | rdconv => exact needOpen_withPast s p (rdconvSteps_withPast s p)
  | rdthr => exact needOpen_withPast s p (by simp)
  | rdss m => exact needOpen_withPast s p (by simp)
  | reset => exact needMade_withPast s p (resetSteps_withPast s p)
  | init busIdx gain addr rate => exact absurd rfl hi

/-- A command does with a past what it does without it: what came before shows up in the next state only, its responses all
of them and its `lastCfg` where nothing replaced it. -/
theorem exec_withPast (i : Instr) :
    ∃ c, (p.lastCfg = none → c = none) ∧ exec i (s.withPast p) = nextWithPast { p with lastCfg := c } (exec i s) := by
  by_cases hi : i.op = .init
  · cases i <;> simp only [Instr.op, reduceCtorEq] at hi
    obtain ⟨c, hc, h⟩ := initSteps_withPast s p _ _ _ _
    exact ⟨c, hc, needNoInstance_withPast s p h⟩
  · exact ⟨p.lastCfg, id, exec_withPast_of_not_init s p hi⟩

/-- Where only earlier responses lie in the past, all of it shows up. -/
theorem exec_withResponses (i : Instr) (ds : List Delivery) :
    exec i (s.withPast ⟨ds, none⟩) = nextWithPast ⟨ds, none⟩ (exec i s) := by
  obtain ⟨c, hc, h⟩ := exec_withPast s ⟨ds, none⟩ i
  rwa [hc rfl] at h

/-- A state is one with no responses over its own responses. -/
theorem responses_withPast (ds : List Delivery) :
    { s with delivered := ds } = { s with delivered := [] }.withPast ⟨ds, none⟩ := by
  simp [State.withPast]

/-- A state is one with no `lastCfg` over its own. -/
theorem lastCfg_withPast (c : Option Word) :
    { s with lastCfg := c } = { s with lastCfg := none }.withPast ⟨[], c⟩ := by
  simp [State.withPast]

end Operations

/-- One run seen over two pasts: the same next state under each, the same fault, the same refusal. -/
theorem nextWithPast_alike (p q : Past) (o : Host.Outcome State Fault Refusal) :
    (∀ t, nextWithPast p o = .next t → ∃ u : State, t = u.withPast p ∧ nextWithPast q o = .next (u.withPast q)) ∧
    (∀ f, nextWithPast p o = .fault f → nextWithPast q o = .fault f) ∧
    (∀ r, nextWithPast p o = .refused r → nextWithPast q o = .refused r) := by
  cases o with
  | next u =>
    refine ⟨fun t ht => ⟨u, ?_, rfl⟩, fun f hf => ?_, fun r hr => ?_⟩
    · exact (Host.Outcome.next.inj ht).symm
    · cases hf
    · cases hr
  | fault f => simp [nextWithPast]
  | refused r => simp [nextWithPast]

/-- Settles O54: both runs are that of the state with no earlier responses, with those of each put under it. -/
theorem noStickyStatus : Obligations.NoStickyStatus := by
  intro i s before
  have run : ∀ ds, exec i { s with delivered := ds } = nextWithPast ⟨ds, none⟩ (exec i { s with delivered := [] }) :=
    fun ds => by rw [← exec_withResponses, ← responses_withPast]
  obtain ⟨hnext, hfault, hrefused⟩ :=
    nextWithPast_alike ⟨s.delivered, none⟩ ⟨before, none⟩ (exec i { s with delivered := [] })
  rw [← run s.delivered, ← run before] at hnext hfault hrefused
  refine ⟨fun t ht => ?_, hfault, hrefused⟩
  obtain ⟨u, rfl, hu⟩ := hnext t ht
  exact ⟨u.delivered, rfl, by rw [hu]; simp [State.withPast]⟩

/-- Settles O55: both runs are that of the state with no `lastCfg`, and over either value it only leaves another `lastCfg`. -/
theorem shadowNeverRead : Obligations.ShadowNeverRead := by
  intro i s c
  obtain ⟨x, -, hs⟩ := exec_withPast { s with lastCfg := none } ⟨[], s.lastCfg⟩ i
  obtain ⟨y, -, hc⟩ := exec_withPast { s with lastCfg := none } ⟨[], c⟩ i
  obtain ⟨hnext, hfault, hrefused⟩ := nextWithPast_alike ⟨[], x⟩ ⟨[], y⟩ (exec i { s with lastCfg := none })
  rw [← hs, ← hc, ← lastCfg_withPast, ← lastCfg_withPast] at hnext hfault hrefused
  refine ⟨fun t ht => ?_, hfault, hrefused⟩
  obtain ⟨u, rfl, hu⟩ := hnext t ht
  exact ⟨u.lastCfg.or y, hu⟩

end Sys2Proof.Machine

/-! ## Proofs: transactions, conversions and the shared device (family 20_memory.md) -/

namespace Sys2Proof

/-! ### The words of the other agent decode to its commands -/

theorem decode_encode_wrcfg (w : Word) : decode (encode (.wrcfg w)) = .instr (.wrcfg w) := by
  rw [encode, decode_packWord _ _ _ _ (by decide) (by decide) (BitVec.zero_and ..)]
  simp [decodeOperands]

theorem decode_encode_rdss (m : BitVec 3) : decode (encode (.rdss m)) = .instr (.rdss m) := by
  revert m; decide

end Sys2Proof

namespace Sys2Proof.Machine

/-! ### When a conversion ends, and what a read then returns -/

section Conversions

variable (d : Device) (e : BusAnswer)

@[simp] theorem Device.acts_freeRuns : (d.acts e).freeRuns = d.freeRuns := by simp [Device.freeRuns]

@[simp] theorem Device.seen_freeRuns (i : RegIdx) (w : Word) : (d.seen i w).freeRuns = d.freeRuns := by
  simp [Device.freeRuns]

/-- Nothing ends where nothing can. -/
theorem Device.acts_of_noneCanEnd (h : NoneCanEnd d) : d.acts e = d :=
  Device.acts_of_not_converting d e ((converting_eq_false d).2 h)

/-- A device in single-shot mode does not free-run. -/
theorem freeRuns_eq_false {d : Device} (hk : d.cfgKnown = true) (hm : d.config.getLsbD 8 = true) : d.freeRuns = false := by
  simp [Device.freeRuns, isContinuous_eq, hk, hm]

/-- A device in continuous mode free-runs. -/
theorem freeRuns_of_continuous {d : Device} (hm : d.config.getLsbD 8 = false) : d.freeRuns = true := by
  rw [Device.freeRuns, isContinuous_eq, hm, Bool.not_false, Bool.or_true]

/-- Where a conversion ended on a device that does not free-run, the counted one that is spent is known to have. -/
theorem Device.acts_counted_ended (hf : d.freeRuns = false) (hp : d.convPending ≠ 0) (he : e.convEnded = true) :
    d.acts e = { d with convPending := d.convPending - max 1 e.spent, convKnown := false } := by
  simp [Device.acts, Device.converting, Device.spentOf, hf, hp, he]

/-- A read before which a conversion ended returns the draw. -/
theorem Device.value_of_ended (w : Word) (he : e.convEnded = true) (hc : d.converting = true) :
    (d.acts e).value .conversion w = w := by
  simp [Device.acts_value_conversion, he, hc]

theorem Device.converting_of_freeRuns (h : d.freeRuns = true) : d.converting = true := by simp [Device.converting, h]

theorem Device.not_converting (hf : d.freeRuns = false) (hp : d.convPending = 0) : d.converting = false := by
  simp [Device.converting, hf, hp]

end Conversions

/-! ### Commands whose next answer is at hand -/

section NextAnswer

variable {s : State} {a : BusAnswer} {rest : List BusAnswer}

theorem finishRead_cons (hs : s.answers = a :: rest) (ha : Succeeds a) (p : Phase) (i : RegIdx)
    (result : Word → Payload) :
    finishRead p i result s =
      { s with
        answers := rest
        phase := .idle
        lock := .free
        device := (s.device.acts a).seen i a.word
        busLog := busEvent s s.who (.read i) :: s.busLog
        delivered := ⟨s.who, .ok (result ((s.device.acts a).value i a.word))⟩ :: s.delivered } := by
  have hn := nextAnswer_cons s hs
  rw [finishRead_ok s p i result (hn ▸ ha), dropAnswer_cons s hs, hn]

theorem finishRead_failed_cons (hs : s.answers = a :: rest) {f : Failure} (ha : a.failure = some f) (p : Phase)
    (i : RegIdx) (result : Word → Payload) :
    finishRead p i result s =
      { s with
        answers := rest
        phase := .idle
        lock := .free
        device := s.device.acts a
        busLog := busEvent s s.who (.read i) :: s.busLog
        delivered := ⟨s.who, .err (.busError i .read)⟩ :: s.delivered } := by
  have hn := nextAnswer_cons s hs
  rw [finishRead_failed s p i result (hn ▸ ha), dropAnswer_cons s hs, hn]

theorem wrcfgSteps_cons (hs : s.answers = a :: rest) (ha : Succeeds a) (w : Word) :
    wrcfgSteps w s =
      { s with
        answers := rest
        phase := .idle
        lock := .free
        lastCfg := some w
        device := (s.device.acts a).accept s.who w (starts w a)
        busLog := busEvent s s.who (.write .config w) :: s.busLog
        delivered := ⟨s.who, .ok .none⟩ :: s.delivered } := by
  have hn := nextAnswer_cons s hs
  rw [wrcfgSteps_ok s w (hn ▸ ha), dropAnswer_cons s hs, hn]

/-- `s` after RDTHR's first read, which succeeded (41_sequencer.md R145). -/
def rdthrRead (a : BusAnswer) (rest : List BusAnswer) (s : State) : State :=
  { s with
    answers := rest
    phase := .rdLo
    lock := lockAfterAccess s.scope s.who
    device := (s.device.acts a).seen .lowThreshold a.word
    busLog := busEvent s s.who (.read .lowThreshold) :: s.busLog }

/-- The low threshold that this read returned. -/
def lowRead (a : BusAnswer) (s : State) : Word := if s.device.lowKnown then s.device.lowThr else a.word

theorem rdthrFirst_cons (hs : s.answers = a :: rest) (ha : Succeeds a) :
    rdthrRest s = some (.afterLow (lowRead a s)) ∧ rdthrFirst s = rdthrRead a rest s := by
  have hn := nextAnswer_cons s hs
  obtain ⟨h1, h2⟩ := rdthrFirst_ok s (hn ▸ ha)
  rw [h1, h2, dropAnswer_cons s hs, hn]
  simp [rdthrRead, lowRead, Device.value]

/-- `s` after RDSS's write, which succeeded, in the settle wait (R146). -/
def rdssWritten (m : BitVec 3) (a : BusAnswer) (rest : List BusAnswer) (s : State) : State :=
  { s with
    answers := rest
    phase := .settle
    lock := lockAfterAccess s.scope s.who
    lastCfg := some (singleShotWord m s)
    device := (s.device.acts a).accept s.who (singleShotWord m s) (starts (singleShotWord m s) a)
    busLog := .wait s.who s.rate :: busEvent s s.who (.write .config (singleShotWord m s)) :: s.busLog }

theorem rdssFirst_cons (hs : s.answers = a :: rest) (ha : Succeeds a) (m : BitVec 3) :
    rdssRest s = some .afterSettle ∧ rdssFirst m s = rdssWritten m a rest s := by
  have hn := nextAnswer_cons s hs
  obtain ⟨h1, h2⟩ := rdssFirst_ok s m (hn ▸ ha)
  rw [h1, h2, dropAnswer_cons s hs, hn]
  exact ⟨rfl, rfl⟩

/-- RDTHR in a ready state goes from its first read through the gap to its second. -/
theorem exec_rdthr_eq (h : Ready s) (hs : s.answers = a :: rest) (ha : Succeeds a) :
    exec .rdthr s = .next (finishRest (.afterLow (lowRead a s)) (gap (rdthrRead a rest s))) := by
  obtain ⟨h1, h2⟩ := rdthrFirst_cons hs ha
  simp only [exec, execRdthr, needOpen_ready s h, h1, h2, throughGap]

/-- RDSS in a ready state goes from its write through the gap to its read. -/
theorem exec_rdss_eq (h : Ready s) (hs : s.answers = a :: rest) (ha : Succeeds a) (m : BitVec 3) :
    exec (.rdss m) s = .next (finishRest .afterSettle (gap (rdssWritten m a rest s))) := by
  obtain ⟨h1, h2⟩ := rdssFirst_cons hs ha m
  simp only [exec, execRdss, needOpen_ready s h, h1, h2, throughGap]

/-! ### A command of one transaction from a ready state to the next -/

/-- `t` is `s` after a command that used the first answer: it is ready for the next command, with this `lastCfg` and this
device, and the agent has this result. -/
structure CommandRan (s t : State) (rest : List BusAnswer) (c : Option Word) (d : Device) (p : Payload) : Prop where
  ready : Ready t
  who : t.who = s.who
  answers : t.answers = rest
  lastCfg : t.lastCfg = c
  device : t.device = d
  delivered : t.delivered = ⟨s.who, .ok p⟩ :: s.delivered

theorem exec_wrcfg_ran (h : Ready s) (hs : s.answers = a :: rest) (ha : Succeeds a) (w : Word) :
    ∃ t, exec (.wrcfg w) s = .next t ∧
      CommandRan s t rest (some w) ((s.device.acts a).accept s.who w (starts w a)) .none := by
  refine ⟨_, needOpen_ready s h _, ?_⟩
  obtain ⟨hm, ho, -⟩ := h
  rw [wrcfgSteps_cons hs ha]
  exact ⟨⟨hm, ho, rfl, rfl⟩, rfl, rfl, rfl, rfl, rfl⟩

/-- The one read of RDCFG and of RDCONV. -/
theorem finishRead_ran (h : Ready s) (hs : s.answers = a :: rest) (ha : Succeeds a) (p : Phase) (i : RegIdx) :
    CommandRan s (finishRead p i .word s) rest s.lastCfg ((s.device.acts a).seen i a.word)
      (.word ((s.device.acts a).value i a.word)) := by
  obtain ⟨hm, ho, -⟩ := h
  rw [finishRead_cons hs ha]
  exact ⟨⟨hm, ho, rfl, rfl⟩, rfl, rfl, rfl, rfl, rfl⟩

theorem exec_rdcfg_ran (h : Ready s) (hs : s.answers = a :: rest) (ha : Succeeds a) :
    ∃ t, exec .rdcfg s = .next t ∧
      CommandRan s t rest s.lastCfg ((s.device.acts a).seen .config a.word)
        (.word ((s.device.acts a).value .config a.word)) :=
  ⟨_, needOpen_ready s h _, finishRead_ran h hs ha _ _⟩

theorem exec_rdconv_ran (h : Ready s) (hs : s.answers = a :: rest) (ha : Succeeds a) :
    ∃ t, exec .rdconv s = .next t ∧
      CommandRan s t rest s.lastCfg ((s.device.acts a).seen .conversion a.word)
        (.word ((s.device.acts a).value .conversion a.word)) :=
  ⟨_, needOpen_ready s h _, finishRead_ran h hs ha _ _⟩

/-- An RDCONV before which a conversion ended reads the draw, which is then the known content. -/
theorem exec_rdconv_draws (h : Ready s) (hs : s.answers = a :: rest) (ha : Succeeds a) (he : a.convEnded = true)
    (hc : s.device.converting = true) :
    ∃ t, exec .rdconv s = .next t ∧
      CommandRan s t rest s.lastCfg { s.device.acts a with conversion := a.word, convKnown := true } (.word a.word) := by
  obtain ⟨t, ht, hr⟩ := exec_rdconv_ran h hs ha
  rw [Device.seen, Device.value_of_ended _ _ _ he hc] at hr
  exact ⟨t, ht, hr⟩

/-- On a device that does not free-run such an RDCONV spends a counted conversion. -/
theorem exec_rdconv_spends (h : Ready s) (hs : s.answers = a :: rest) (ha : Succeeds a) (he : a.convEnded = true)
    (hf : s.device.freeRuns = false) (hp : s.device.convPending ≠ 0) :
    ∃ t, exec .rdconv s = .next t ∧
      CommandRan s t rest s.lastCfg
        { s.device with
          convPending := s.device.convPending - max 1 a.spent, conversion := a.word, convKnown := true }
        (.word a.word) := by
  obtain ⟨t, ht, hr⟩ := exec_rdconv_draws h hs ha he (by simp [Device.converting, hp])
  rw [Device.acts_counted_ended _ _ hf hp he] at hr
  exact ⟨t, ht, hr⟩

end NextAnswer

/-! ### Obligations about one agent's commands -/

/-- Bits 14:0 of what a config read returns are the stored word's, whatever the status bit (20_memory.md R66). -/
theorem withStatusBit_extractLsb' (stored draw : Word) :
    (withStatusBit stored draw).extractLsb' 0 15 = stored.extractLsb' 0 15 := by
  rw [withStatusBit, BitVec.extractLsb'_append_eq_right]

/-- Settles O40: WRCFG leaves the word known in the device, and a read of a known config register differs in bit 15 only. -/
theorem rdcfgReadsBackWrcfg : Obligations.RdcfgReadsBackWrcfg := by
  intro s w a b rest h hs ha hb
  obtain ⟨t, ht, hT⟩ := exec_wrcfg_ran h hs ha w
  obtain ⟨u, hu, hU⟩ := exec_rdcfg_ran hT.ready hT.answers hb
  refine ⟨t, u, _, ht, hu, hT.who ▸ hU.delivered, ?_, hU.lastCfg.trans hT.lastCfg⟩
  rw [hT.device]
  simp [Device.value, Device.accept, withStatusBit_extractLsb']

/-- Settles O46: a device in continuous mode has always a conversion in progress, so each end before a read gives a draw. -/
theorem continuousModeReplacesResult : Obligations.ContinuousModeReplacesResult := by
  intro s w a b c rest h hs ha hb hc hw heb hec
  obtain ⟨t, ht, hT⟩ := exec_wrcfg_ran h hs ha w
  have hft : t.device.freeRuns = true := by rw [hT.device]; exact freeRuns_of_continuous hw
  obtain ⟨u, hu, hU⟩ := exec_rdconv_draws hT.ready hT.answers hb heb (t.device.converting_of_freeRuns hft)
  have hfu : u.device.freeRuns = true := by rw [hU.device]; exact (t.device.acts_freeRuns b).trans hft
  obtain ⟨x, hx, hX⟩ := exec_rdconv_draws hU.ready hU.answers hc hec (u.device.converting_of_freeRuns hfu)
  exact ⟨t, u, x, ht, hu, hx, hT.who ▸ hU.delivered, (hU.who.trans hT.who) ▸ hX.delivered⟩

/-- Settles O47: the device's own step spends what the environment names, and neither it nor the read changes the mode. -/
theorem freeRunSpendsNoOlderConversion : Obligations.FreeRunSpendsNoOlderConversion := by
  intro s a rest h hs ha hf
  obtain ⟨t, ht, hT⟩ := exec_rdconv_ran h hs ha
  refine ⟨t, ht, ?_, ?_⟩
  · rw [hT.device, Device.seen_convPending, Device.acts_convPending_freeRuns _ _ hf]
  · rw [hT.device, Device.seen_freeRuns, Device.acts_freeRuns, hf]

/-- Settles O48: the trigger word leaves two conversions that can end, the one that ran and its own; each of the first two
reads spends one and returns a draw, and before the third none can end. -/
theorem runningAndTriggeredBothMayEnd : Obligations.RunningAndTriggeredBothMayEnd := by
  intro s w a b c e rest h hs ha hb hc he hk hm hp hos hmode hea heb hspent hec hee
  obtain ⟨t, ht, hT⟩ := exec_wrcfg_ran h hs ha w
  have htf : t.device.freeRuns = false := by rw [hT.device]; exact freeRuns_eq_false rfl hmode
  have htp : t.device.convPending = 2 := by
    simp [hT.device, Device.acts_of_none _ _ hea, Device.accept, Device.unended, freeRuns_of_continuous hm, hp, starts, ha,
      isContinuous_eq, startBit_eq, hos, hmode]
  obtain ⟨u, hu, hU⟩ := exec_rdconv_spends hT.ready hT.answers hb heb htf (by simp [htp])
  have huf : u.device.freeRuns = false := by rw [hU.device]; exact htf
  have hup : u.device.convPending = 1 := by
    simp only [hU.device, htp]
    omega
  obtain ⟨x, hx, hX⟩ := exec_rdconv_spends hU.ready hU.answers hc hec huf (by simp [hup])
  have hxf : x.device.freeRuns = false := by rw [hX.device]; exact huf
  have hxp : x.device.convPending = 0 := by
    simp only [hX.device, hup]
    omega
  obtain ⟨y, hy, hY⟩ := exec_rdconv_ran hX.ready hX.answers he
  have hv : (x.device.acts e).value .conversion e.word = c.word := by
    rw [Device.acts_of_not_converting _ _ (x.device.not_converting hxf hxp), hX.device]
    rfl
  rw [hv] at hY
  have hwu := hU.who.trans hT.who
  exact ⟨t, u, x, y, ht, hu, hx, hy, hT.who ▸ hU.delivered, hwu ▸ hX.delivered, (hX.who.trans hwu) ▸ hY.delivered⟩

end Sys2Proof.Machine

/-! ## Proofs: commands of the other agent inside a gap, and suspended commands (family 20_memory.md) -/

namespace Sys2Proof.Machine

/-! ### One move of the other agent in a gap -/

section Gap

variable {s : State} {i : Instr} {b : BusAnswer} {rest : List BusAnswer} {grest : List Nat} {prest : List Request}

/-- At the gap where `s` stands the other agent makes one move, its command `i` at the head of the port. -/
structure GapCommand (s : State) (i : Instr) (grest : List Nat) (prest : List Request) : Prop where
  isOpen : s.isOpen = true
  scope : s.scope = .perAccess
  suspended : s.suspended = none
  gaps : s.gaps = 1 :: grest
  port : s.port = ⟨otherOf s.who, encode i⟩ :: prest

/-- A first access changes nothing that the gap after it depends on. -/
theorem GapCommand.rdssWritten (h : GapCommand s i grest prest) (m : BitVec 3) :
    GapCommand (rdssWritten m b rest s) i grest prest := ⟨h.isOpen, h.scope, h.suspended, h.gaps, h.port⟩

@[inherit_doc GapCommand.rdssWritten]
theorem GapCommand.rdthrRead (h : GapCommand s i grest prest) : GapCommand (rdthrRead b rest s) i grest prest :=
  ⟨h.isOpen, h.scope, h.suspended, h.gaps, h.port⟩

/-- `s` with the other agent in progress, which has taken its word in the gap. -/
def otherTurn (grest : List Nat) (prest : List Request) (s : State) : State :=
  { s with who := otherOf s.who, phase := .idle, gaps := grest, port := prest }

/-- The gap is the part of that command up to its own gap, after which the first command goes on. -/
theorem GapCommand.gap_eq (h : GapCommand s i grest prest) (hd : decode (encode i) = .instr i) {t : State}
    (ht : beginCommand i (otherTurn grest prest s) = some t) : gap s = { t with who := s.who, phase := s.phase } := by
  have hport : takeFirst (otherOf s.who) s.port = some (encode i, prest) := by simp [h.port, takeFirst]
  have hword : beginWord (decode (encode i)) (otherTurn grest prest s) = some t := by rw [hd]; exact ht
  rw [gap_perAccess s h.scope, nextGap_cons s h.gaps, dropGap_cons s h.gaps, otherMoves, otherMoves,
    otherMove_at_port { s with gaps := grest } h.suspended hport]
  exact congrArg (fun o : Option State => (o.map fun t => { t with who := s.who, phase := s.phase }).getD _) hword

theorem GapCommand.gap_wrcfg {w : Word} (h : GapCommand s (.wrcfg w) grest prest) (hs : s.answers = b :: rest)
    (hb : Succeeds b) :
    gap s = { s with
      gaps := grest
      port := prest
      answers := rest
      lock := .free
      lastCfg := some w
      device := (s.device.acts b).accept (otherOf s.who) w (starts w b)
      busLog := busEvent s (otherOf s.who) (.write .config w) :: s.busLog
      delivered := ⟨otherOf s.who, .ok .none⟩ :: s.delivered } := by
  rw [h.gap_eq (decode_encode_wrcfg w) (if_pos h.isOpen), wrcfgSteps_cons (s := otherTurn grest prest s) hs hb]
  rfl

theorem GapCommand.gap_rdconv (h : GapCommand s .rdconv grest prest) (hs : s.answers = b :: rest) (hb : Succeeds b) :
    gap s = { s with
      gaps := grest
      port := prest
      answers := rest
      lock := .free
      device := (s.device.acts b).seen .conversion b.word
      busLog := busEvent s (otherOf s.who) (.read .conversion) :: s.busLog
      delivered := ⟨otherOf s.who, .ok (.word ((s.device.acts b).value .conversion b.word))⟩ :: s.delivered } := by
  rw [h.gap_eq (by decide) (if_pos h.isOpen), rdconvSteps, finishRead_cons (s := otherTurn grest prest s) hs hb]
  rfl

/-- The other agent's RDTHR makes its first read in the gap and is suspended. -/
theorem GapCommand.gap_rdthr (h : GapCommand s .rdthr grest prest) (hs : s.answers = b :: rest) (hb : Succeeds b) :
    gap s = { Machine.rdthrRead b rest (otherTurn grest prest s) with
      who := s.who
      phase := s.phase
      suspended := some ⟨otherOf s.who, .afterLow (lowRead b s)⟩ } := by
  obtain ⟨h1, h2⟩ := rdthrFirst_cons (s := otherTurn grest prest s) hs hb
  rw [h.gap_eq (by decide) (if_pos h.isOpen), h1, h2]
  rfl

/-- The other agent's RDSS makes its write in the gap and is suspended. -/
theorem GapCommand.gap_rdss {k : BitVec 3} (h : GapCommand s (.rdss k) grest prest) (hs : s.answers = b :: rest)
    (hb : Succeeds b) :
    gap s = { Machine.rdssWritten k b rest (otherTurn grest prest s) with
      who := s.who
      phase := s.phase
      suspended := some ⟨otherOf s.who, .afterSettle⟩ } := by
  obtain ⟨h1, h2⟩ := rdssFirst_cons (s := otherTurn grest prest s) hs hb k
  rw [h.gap_eq (decode_encode_rdss k) (if_pos h.isOpen), h1, h2]
  rfl

/-! ### The second access of a command -/

/-- RDSS's settle wait ends and its read succeeds. -/
theorem finishRest_afterSettle_cons (hs : s.answers = b :: rest) (hb : Succeeds b) :
    finishRest .afterSettle s = { s with
      answers := rest
      phase := .idle
      lock := .free
      device := ((s.device.settled s.who).acts b).seen .conversion b.word
      busLog := busEvent s s.who (.read .conversion) :: s.busLog
      delivered :=
        ⟨s.who, .ok (.word (((s.device.settled s.who).acts b).value .conversion b.word))⟩ :: s.delivered } :=
  finishRead_cons (s := endWait s) hs hb ..

/-- RDTHR's second read succeeds. -/
theorem finishRest_afterLow_cons (hs : s.answers = b :: rest) (hb : Succeeds b) (lo : Word) :
    finishRest (.afterLow lo) s = { s with
      answers := rest
      phase := .idle
      lock := .free
      device := (s.device.acts b).seen .highThreshold b.word
      busLog := busEvent s s.who (.read .highThreshold) :: s.busLog
      delivered := ⟨s.who, .ok (.pair lo ((s.device.acts b).value .highThreshold b.word))⟩ :: s.delivered } :=
  finishRead_cons hs hb ..

end Gap

/-! ### Obligations about a command of the other agent in a gap -/

/-- Settles O41: the gap after RDSS's write is the other agent's WRCFG, whose word nothing after it replaces. -/
theorem wrcfgFallsInsideRdss : Obligations.WrcfgFallsInsideRdss := by
  intro s m w a b c arest grest prest h hscope hsus hs ha hb hc hgaps hport
  have ⟨_, hopen, _⟩ := h
  have hG : GapCommand s (.wrcfg w) grest prest := ⟨hopen, hscope, hsus, hgaps, hport⟩
  rw [exec_rdss_eq h hs ha m, (hG.rdssWritten m).gap_wrcfg rfl hb, finishRest_afterSettle_cons rfl hc]
  refine ⟨_, singleShotWord m s, _, rfl, rfl, ?_, rfl, rfl, rfl⟩
  simp [Device.accept]

/-- The number of the word RDSS writes (41_sequencer.md R146). -/
theorem singleShotWord_toNat (m : BitVec 3) (s : State) :
    (singleShotWord m s).toNat = 0x8103 + m.toNat * 4096 + (gainCode s.gain).toNat * 512 + s.rate.toNat * 32 := by
  have key : ∀ m g r : BitVec 3,
      (encodeWord m g 1 r).toNat = 0x8103 + m.toNat * 4096 + g.toNat * 512 + r.toNat * 32 := by decide
  exact key _ _ _

/-- A low threshold that was just read is read again, by whichever agent (93_implementation_defined.md I2). -/
theorem lowRead_rdthrRead (a b : BusAnswer) (rest : List BusAnswer) (s : State) :
    lowRead b (rdthrRead a rest s) = lowRead a s := by
  simp [lowRead, rdthrRead, Device.seen, Device.value]

/-- Settles O42: the gap after either command's first access is the other agent's first access, which leaves its command
suspended; the second access that follows is the command's own. -/
theorem commandBegunInGapIsSuspended : Obligations.CommandBegunInGapIsSuspended := by
  intro s m k a b c arest grest prest h hscope hsus hs ha hb hc hgaps
  have ⟨_, hopen, _⟩ := h
  refine ⟨fun hport => ?_, fun hport => ⟨singleShotWord k s, singleShotWord_toNat k s, ?_⟩⟩
  · have hG : GapCommand s .rdthr grest prest := ⟨hopen, hscope, hsus, hgaps, hport⟩
    constructor
    · rw [exec_rdss_eq h hs ha m, (hG.rdssWritten m).gap_rdthr rfl hb, finishRest_afterSettle_cons rfl hc]
      refine ⟨_, singleShotWord m s, _, _, rfl, rfl, ?_, rfl, rfl, rfl⟩
      simp [lowRead, rdssWritten, Device.accept]
    · rw [exec_rdthr_eq h hs ha, hG.rdthrRead.gap_rdthr rfl hb, finishRest_afterLow_cons rfl hc, lowRead_rdthrRead]
      exact ⟨_, _, _, rfl, rfl, rfl, rfl, rfl, rfl⟩
  · have hG : GapCommand s (.rdss k) grest prest := ⟨hopen, hscope, hsus, hgaps, hport⟩
    constructor
    · rw [exec_rdss_eq h hs ha m, (hG.rdssWritten m).gap_rdss rfl hb, finishRest_afterSettle_cons rfl hc]
      refine ⟨_, singleShotWord m s, _, rfl, rfl, rfl, rfl, ?_, rfl, rfl⟩
      simp only [Device.seen_config, Device.acts_config, Device.settled_config]; rfl
    · rw [exec_rdthr_eq h hs ha, hG.rdthrRead.gap_rdss rfl hb, finishRest_afterLow_cons rfl hc]
      refine ⟨_, _, _, rfl, rfl, rfl, rfl, ?_, rfl, rfl⟩
      simp only [Device.seen_config, Device.acts_config]; rfl

/-- RDSS's write to a device in which no conversion can end leaves one that can, of its own word. -/
theorem rdssWritten_device {s : State} (m : BitVec 3) {a : BusAnswer} (rest : List BusAnswer) (ha : Succeeds a)
    (hn : NoneCanEnd s.device) :
    (rdssWritten m a rest s).device =
      { s.device with
        config := singleShotWord m s, cfgKnown := true, writer := some s.who, convPending := 1 } := by
  have hp := accept_singleShot_convPending s s.device m a ha
  obtain ⟨hk, hm, hz⟩ := hn
  rw [Device.unended, freeRuns_eq_false hk hm, hz] at hp
  rw [rdssWritten, Device.acts_of_noneCanEnd _ _ ⟨hk, hm, hz⟩]
  exact congrArg (fun n => { s.device with
    config := singleShotWord m s, cfgKnown := true, writer := some s.who, convPending := n }) hp

/-- The device as an agent's own read meets it, after a read of the other agent and the end of the settle wait. -/
def Device.afterOtherRead (d : Device) (a : Agent) (b c : BusAnswer) : Device :=
  (((d.acts b).seen .conversion b.word).settled a).acts c

/-- One conversion can end, of the agent's own word. If it ended before the other agent's read, the settle wait ends none
and the word read stays; if not, the wait ends it. None is left to end after that. -/
theorem Device.afterOtherRead_eq (d : Device) (a : Agent) (b c : BusAnswer) (hf : d.freeRuns = false)
    (hp : d.convPending = 1) (hw : d.writer = some a) :
    d.afterOtherRead a b c =
      if b.convEnded then { d with conversion := b.word, convPending := 0, convKnown := true }
      else { d with conversion := d.value .conversion b.word, convPending := 0, convKnown := false } := by
  unfold Device.afterOtherRead
  cases he : b.convEnded with
  | true =>
    have hz : 1 - max 1 b.spent = 0 := by omega
    rw [Device.acts_counted_ended _ _ hf (by simp [hp]) he, hp, hz, Device.settled_of_none_pending _ _ rfl]
    exact Device.acts_of_not_converting _ _ (Device.not_converting _ hf rfl)
  | false =>
    rw [Device.acts_of_none _ _ he, Device.settled_own _ a (by simpa using hw) (by simp [hp])]
    exact Device.acts_of_not_converting _ _ (Device.not_converting _ hf rfl)

/-- Settles O44: one conversion can end after RDSS's write. If it ended before the other agent's read, the settle wait ends
none and RDSS reads what the other read; if not, the wait ends it, and RDSS's read is a draw. -/
theorem oneTriggerOneResult : Obligations.OneTriggerOneResult := by
  intro s m a b c arest grest prest h hscope hsus hs ha hb hc hgaps hport hn
  have ⟨_, hopen, _⟩ := h
  have hG : GapCommand s .rdconv grest prest := ⟨hopen, hscope, hsus, hgaps, hport⟩
  have hD := rdssWritten_device m (b :: c :: arest) ha hn
  obtain ⟨-, hbit⟩ := singleShotWord_bits s m
  generalize hd : (rdssWritten m a (b :: c :: arest) s).device = d at hD
  have hf : d.freeRuns = false := by rw [hD]; exact freeRuns_eq_false rfl hbit
  have hp : d.convPending = 1 := by rw [hD]
  have hX := d.afterOtherRead_eq s.who b c hf hp (by rw [hD])
  rw [exec_rdss_eq h hs ha m, (hG.rdssWritten m).gap_rdconv rfl hb, finishRest_afterSettle_cons rfl hc, hd]
  refine ⟨_, _, _, rfl, rfl, hsus, ?_, rfl, fun he => ⟨?_, ?_⟩, fun he => ⟨?_, ?_⟩⟩
  · change ((d.afterOtherRead s.who b c).seen .conversion c.word).convPending = 0
    rw [Device.seen_convPending, hX]
    split <;> rfl
  · exact d.value_of_ended b b.word he (by simp [Device.converting, hp])
  · change (d.afterOtherRead s.who b c).value .conversion c.word = b.word
    rw [hX, if_pos he]
    rfl
  · change (d.afterOtherRead s.who b c).value .conversion c.word = c.word
    rw [hX, he]
    rfl
  · rw [Device.acts_of_none _ _ he, hD]
    rfl

/-! ### A suspended command goes on to its end -/

section SuspendedEnds

variable {s : State} {p : Suspended} {a : BusAnswer} {rest : List BusAnswer} {f : Failure}

/-- `s` after the suspended command made its last read, of register `i`, and ended with response `r`. -/
def suspendedEnd (s : State) (p : Suspended) (rest : List BusAnswer) (d : Device) (i : RegIdx) (r : Response) : State :=
  { s with
    suspended := none, lock := .free, device := d, answers := rest, gaps := (dropGap s).gaps, draws := (dropGap s).draws,
    busLog := .call p.agent s.busIdx s.addr (.read i) :: s.busLog, delivered := ⟨p.agent, r⟩ :: s.delivered }

theorem step_of_suspendedFirst (hp : s.suspended = some p) (hf : suspendedFirst p s = true) :
    step s = .next (resume p (dropGap s)) := by
  unfold step
  split
  · next h => rw [hp] at h; cases h
  · next q h =>
    rw [hp] at h; cases h
    exact if_pos hf

/-- `s` with the suspended command in progress. -/
def suspendedTurn (p : Suspended) (s : State) : State := { dropGap s with who := p.agent, suspended := none }

theorem resume_eq {r : Rest} {t : State} (hr : p.rest = r) (h : finishRest r (suspendedTurn p s) = t) :
    resume p (dropGap s) = { t with who := s.who, phase := s.phase } := by
  rw [← h, ← hr]
  rfl

theorem resume_afterSettle (hr : p.rest = .afterSettle) (hs : s.answers = a :: rest) (ha : Succeeds a) :
    resume p (dropGap s) =
      suspendedEnd s p rest (((s.device.settled p.agent).acts a).seen .conversion a.word) .conversion
        (.ok (.word (((s.device.settled p.agent).acts a).value .conversion a.word))) := by
  rw [resume_eq hr (finishRest_afterSettle_cons (s := suspendedTurn p s) hs ha)]
  rfl

theorem resume_afterLow {lo : Word} (hr : p.rest = .afterLow lo) (hs : s.answers = a :: rest) (ha : Succeeds a) :
    resume p (dropGap s) =
      suspendedEnd s p rest ((s.device.acts a).seen .highThreshold a.word) .highThreshold
        (.ok (.pair lo ((s.device.acts a).value .highThreshold a.word))) := by
  rw [resume_eq hr (finishRest_afterLow_cons (s := suspendedTurn p s) hs ha lo)]
  rfl

theorem resume_afterSettle_failed (hr : p.rest = .afterSettle) (hs : s.answers = a :: rest) (ha : a.failure = some f) :
    resume p (dropGap s) =
      suspendedEnd s p rest ((s.device.settled p.agent).acts a) .conversion (.err (.busError .conversion .read)) := by
  rw [resume_eq hr (finishRead_failed_cons (s := endWait (suspendedTurn p s)) hs ha ..)]
  rfl

theorem resume_afterLow_failed {lo : Word} (hr : p.rest = .afterLow lo) (hs : s.answers = a :: rest)
    (ha : a.failure = some f) :
    resume p (dropGap s) =
      suspendedEnd s p rest (s.device.acts a) .highThreshold (.err (.busError .highThreshold .read)) := by
  rw [resume_eq hr (finishRead_failed_cons (s := suspendedTurn p s) hs ha ..)]
  rfl

end SuspendedEnds

section SettledRead

variable (d : Device) (a : Agent) (ans : BusAnswer)

/-- A settle wait ends what can end, if the last word was its agent's, and else ends none. -/
theorem Device.settled_cases :
    (d.writer = some a ∧ d.convPending ≠ 0) ∨ ((d.writer ≠ some a ∨ d.convPending = 0) ∧ d.settled a = d) := by
  by_cases h : d.writer = some a ∧ d.convPending ≠ 0
  · exact .inl h
  · exact .inr ⟨by tauto, if_neg h⟩

/-- After a settle wait the read is a draw where the wait ended a conversion, the content was not known, or one ended since. -/
theorem Device.settled_value_draw
    (h : d.writer = some a ∧ d.convPending ≠ 0 ∨ d.convKnown = false ∨ ans.convEnded = true ∧ ¬NoneCanEnd d) :
    ((d.settled a).acts ans).value .conversion ans.word = ans.word := by
  rcases d.settled_cases a with ⟨hw, hp⟩ | ⟨hn, hs⟩
  · rw [Device.acts_value_conversion, d.settled_own a hw hp]
    simp
  · rw [hs]
    rcases h with ⟨hw, hp⟩ | hk | ⟨he, hc⟩
    · tauto
    · simp [Device.acts_value_conversion, hk]
    · exact d.value_of_ended ans _ he (by simpa using mt (converting_eq_false d).1 hc)

/-- Where no conversion ended, or none could, the device does nothing on its own. -/
theorem Device.acts_of_none_ended (he : ans.convEnded = false ∨ NoneCanEnd d) : d.acts ans = d :=
  he.elim (d.acts_of_none ans) (d.acts_of_noneCanEnd ans)

/-- After a settle wait that ended none, the read returns known content if none ended since. -/
theorem Device.settled_value_kept (hk : d.convKnown = true) (hn : d.writer ≠ some a ∨ d.convPending = 0)
    (he : ans.convEnded = false ∨ NoneCanEnd d) :
    ((d.settled a).acts ans).value .conversion ans.word = d.conversion := by
  rw [hn.elim (d.settled_of_other a) (d.settled_of_none_pending a), d.acts_of_none_ended ans he]
  simp [Device.value, hk]

/-- A settle wait and what the device does after it begin no conversion. -/
theorem Device.settled_acts_convPending_le : ((d.settled a).acts ans).convPending ≤ d.convPending :=
  (Device.acts_convPending_le _ ans).trans (d.settled_convPending_le a)

/-- After the last writer's settle wait none is left to end. -/
theorem Device.settled_acts_convPending_own (hw : d.writer = some a) : ((d.settled a).acts ans).convPending = 0 :=
  Nat.le_zero.1 (d.settled_convPending_own a hw ▸ Device.acts_convPending_le _ ans)

end SettledRead

/-- Settles O43: the last read of either command, where RDSS's meets the device after its settle wait; what the wait and the
device's own step leave is in the lemmas about `settled` and `acts`. -/
theorem suspendedCommandEnds : Obligations.SuspendedCommandEnds := by
  intro s p a rest hp hf hs
  rw [step_of_suspendedFirst hp hf]
  refine ⟨fun hr ha => ?_, fun lo hr ha => ?_, fun f ha => ?_⟩
  · refine ⟨_, _, congrArg _ (resume_afterSettle hr hs ha), fun hw => ⟨?_, fun hz => ?_⟩, fun hk => ?_, fun he hn => ?_,
      fun hk hn he => ?_, rfl, rfl, ?_, fun hw he => ?_, ?_, ?_, ?_⟩
    · exact s.device.settled_acts_convPending_own _ a hw
    · exact s.device.settled_value_draw _ a (.inl ⟨hw, hz⟩)
    · exact s.device.settled_value_draw _ a (.inr (.inl hk))
    · exact s.device.settled_value_draw _ a (.inr (.inr ⟨he, hn⟩))
    · exact s.device.settled_value_kept _ a hk hn he
    · exact s.device.settled_acts_convPending_le _ a
    · rw [Device.seen_convPending, s.device.settled_of_other _ hw, s.device.acts_of_none_ended a he]
    · simp [ConfigKept]
    · simp [LowKept, Device.seen]
    · simp [HighKept, Device.seen]
  · refine ⟨_, _, congrArg _ (resume_afterLow hr hs ha), ?_, rfl, rfl, ?_, ?_, ?_⟩
    · simp [Device.value]
    · simp [ConfigKept]
    · simp [LowKept, Device.seen]
    · exact acts_conversionKept s.device a
  · cases hr : p.rest with
    | afterSettle =>
      refine ⟨_, _, congrArg _ (resume_afterSettle_failed hr hs ha), fun _ => ⟨rfl, fun hw hz => ?_, fun hn => ?_⟩, nofun,
        ?_, ?_, ?_⟩
      · refine ⟨by simp, s.device.settled_acts_convPending_own _ a hw, ?_⟩
        simp [Device.acts_convKnown, s.device.settled_own _ hw hz]
      · rw [hn.elim (s.device.settled_of_other _) (s.device.settled_of_none_pending _)]
        exact acts_conversionKept s.device a
      · simp [ConfigKept]
      · simp [LowKept]
      · simp [HighKept]
    | afterLow lo =>
      exact ⟨_, _, congrArg _ (resume_afterLow_failed hr hs ha), nofun, fun _ _ => ⟨rfl, acts_conversionKept s.device a⟩,
        acts_configKept _ a, acts_lowKept _ a, acts_highKept _ a⟩

end Sys2Proof.Machine

/-! ## Proofs: the command word's format (family 30_encoding.md) -/

namespace Sys2Proof

/-! ### Bits under a mask -/

section Bits

variable {n i : Nat} {a m : BitVec n}

theorem getLsbD_of_and_eq_zero (h : a &&& m = 0) (hm : m.getLsbD i = true) : a.getLsbD i = false := by
  have hi := congrArg (·.getLsbD i) h
  simpa [hm] using hi

/-- The bits under a mask of `k` ones from bit `s` up are zero exactly where that slice is. -/
theorem and_eq_zero_iff_slice {s k : Nat} (hk : s + k ≤ n)
    (hm : ∀ i < n, m.getLsbD i = decide (s ≤ i ∧ i < s + k)) : a &&& m = 0 ↔ a.extractLsb' s k = 0 := by
  constructor
  · intro h
    apply BitVec.eq_of_getLsbD_eq
    intro i hi
    simpa [hi] using getLsbD_of_and_eq_zero h (i := s + i) (by simp [hm (s + i) (by omega), hi])
  · intro h
    apply BitVec.eq_of_getLsbD_eq
    intro i hi
    rw [BitVec.getLsbD_and, hm i hi]
    by_cases hr : s ≤ i ∧ i < s + k
    · have hbit := congrArg (·.getLsbD (i - s)) h
      have hai : a.getLsbD i = false := by
        simpa [show i - s < k by omega, show s + (i - s) = i by omega] using hbit
      simp [hai]
    · simp only [hr, decide_false, Bool.and_false, BitVec.ofNat_eq_ofNat, BitVec.getLsbD_zero]

theorem and_or_eq_zero_iff {p : BitVec n} : a &&& (m ||| p) = 0 ↔ a &&& m = 0 ∧ a &&& p = 0 := by
  rw [BitVec.and_or_distrib_left]
  exact BitVec.or_eq_zero_iff

end Bits

/-! ### The codes of operations and fields -/

theorem opOfCode_eq_some {c : BitVec 4} {op : Op} : opOfCode c = some op ↔ op.code = c := by
  refine ⟨?_, fun h => h ▸ opOfCode_code op⟩
  revert c; cases op <;> decide

theorem fieldOfSelector_eq_some {sel : BitVec 4} {f : Field} : fieldOfSelector sel = some f ↔ f.selector = sel := by
  refine ⟨?_, fun h => h ▸ fieldOfSelector_selector f⟩
  revert sel; cases f <;> decide

/-- The selectors 9 to 15 name no field (R105). -/
theorem fieldOfSelector_eq_none : ∀ {sel : BitVec 4}, fieldOfSelector sel = none ↔ 9 ≤ sel.toNat := by decide

/-! ### A command word and its fields (30_encoding.md R101) -/

theorem cmdWord_eq_fields (w : CmdWord) :
    w = opField w ++ fselField w ++ w.extractLsb' 19 5 ++ valField w ++ argField w := by
  unfold opField fselField valField argField
  rw [BitVec.extractLsb'_append_extractLsb'_eq_extractLsb' (by rfl),
    BitVec.extractLsb'_append_extractLsb'_eq_extractLsb' (by rfl),
    BitVec.extractLsb'_append_extractLsb'_eq_extractLsb' (by rfl),
    BitVec.extractLsb'_append_extractLsb'_eq_extractLsb' (by rfl)]
  simp

/-- Two command words with the same fields, the unused bits among them, are one. -/
theorem cmdWord_ext {w v : CmdWord} (hop : opField w = opField v) (hfsel : fselField w = fselField v)
    (hzero : w.extractLsb' 19 5 = v.extractLsb' 19 5) (hval : valField w = valField v)
    (harg : argField w = argField v) : w = v := by
  rw [cmdWord_eq_fields w, cmdWord_eq_fields v, hop, hfsel, hzero, hval, harg]

/-- A mask that spares `op` is checked field by field. -/
theorem and_eq_zero_iff_fields {w m : CmdWord} (hm : opField m = 0) :
    w &&& m = 0 ↔ fselField w &&& fselField m = 0 ∧ w.extractLsb' 19 5 &&& m.extractLsb' 19 5 = 0 ∧
      valField w &&& valField m = 0 ∧ argField w &&& argField m = 0 := by
  have hop : opField (w &&& m) = 0 := by
    rw [opField, BitVec.extractLsb'_and, ← opField, ← opField, hm]
    exact BitVec.and_zero
  unfold fselField valField argField
  simp only [← BitVec.extractLsb'_and]
  refine ⟨fun h => by simp [h], fun ⟨hfsel, hzero, hval, harg⟩ => ?_⟩
  exact cmdWord_ext hop hfsel hzero hval harg

@[simp] theorem zeroField_packWord (op : Op) (f : BitVec 4) (v : BitVec 3) (a : Word) :
    (packWord op f v a).extractLsb' 19 5 = 0 := by
  unfold packWord; ext i hi
  interval_cases i <;> simp

/-- A word whose unused bits are zero is packed from its fields. -/
theorem packWord_fields {op : Op} {w : CmdWord} (hop : op.code = opField w) (hzero : w.extractLsb' 19 5 = 0) :
    packWord op (fselField w) (valField w) (argField w) = w :=
  cmdWord_ext (by simp [hop]) (by simp) (by simp [hzero]) (by simp) (by simp)

/-! ### The must-be-zero bits (R101, R104) -/

theorem opField_mustBeZero (op : Op) : opField op.mustBeZero = 0 := by cases op <;> rfl

theorem fselField_mustBeZero (op : Op) :
    fselField op.mustBeZero = if op = .getf ∨ op = .setf then 0 else BitVec.allOnes 4 := by cases op <;> rfl

theorem zeroField_mustBeZero (op : Op) : op.mustBeZero.extractLsb' 19 5 = BitVec.allOnes 5 := by cases op <;> rfl

theorem valField_mustBeZero (op : Op) :
    valField op.mustBeZero = if op = .setf then 0 else BitVec.allOnes 3 := by cases op <;> rfl

theorem argField_and_mustBeZero (op : Op) (a : Word) :
    a &&& argField op.mustBeZero = 0 ↔ ¬Machine.ArgBroken op a := by
  have all : a &&& 0xFFFF = a := BitVec.and_allOnes
  cases op with
  | encode =>
    have hos : a &&& 0x8000 = 0 ↔ a.extractLsb' 15 1 = 0 := and_eq_zero_iff_slice (by decide) (by decide)
    have hlow : a &&& 0x001F = 0 ↔ a.extractLsb' 0 5 = 0 := and_eq_zero_iff_slice (by decide) (by decide)
    rw [Machine.ArgBroken, not_or, not_not, not_not, ← hos, ← hlow,
      show argField (Op.mustBeZero .encode) = 0x8000 ||| 0x001F from rfl]
    exact and_or_eq_zero_iff
  | rdss =>
    have hhigh : a &&& 0xFFF8 = 0 ↔ a.extractLsb' 3 13 = 0 := and_eq_zero_iff_slice (by decide) (by decide)
    rw [Machine.ArgBroken, not_not, ← hhigh]
    rfl
  | rdcfg | rdconv | rdthr | reset => exact (congrArg (· = (0 : Word)) all).to_iff.trans not_not.symm
  | decode | getf | setf | wrcfg | init => exact iff_of_true BitVec.and_zero not_false

/-- The decoder's mask finds the must-be-zero bits that R101 and R104 name. -/
theorem and_mustBeZero_eq_zero {op : Op} {w : CmdWord} : w &&& op.mustBeZero = 0 ↔ ¬Machine.ZeroBroken op w := by
  rw [and_eq_zero_iff_fields (opField_mustBeZero op), zeroField_mustBeZero, argField_and_mustBeZero,
    fselField_mustBeZero, valField_mustBeZero, BitVec.and_allOnes]
  unfold Machine.ZeroBroken fselField valField argField
  split_ifs <;> simp only [BitVec.and_allOnes, BitVec.ofNat_eq_ofNat, BitVec.and_zero] <;> tauto
/-! ### The operands that share `arg` (R104) -/

/-- ENCODE's operands read back from its `arg`, whose other bits are zero. -/
theorem encodeArg_operands (mux pga : BitVec 3) (mode : BitVec 1) (dr : BitVec 3) :
    (encodeArg mux pga mode dr).extractLsb' (Field.off .mux) 3 = mux ∧
    (encodeArg mux pga mode dr).extractLsb' (Field.off .pga) 3 = pga ∧
    (encodeArg mux pga mode dr).extractLsb' (Field.off .mode) 1 = mode ∧
    (encodeArg mux pga mode dr).extractLsb' (Field.off .dr) 3 = dr ∧
    argField (Op.mustBeZero .encode) &&& encodeArg mux pga mode dr = 0 := by
  rw [show argField (Op.mustBeZero .encode) = 0x801F from rfl]
  refine ⟨?_, ?_, ?_, ?_, ?_⟩ <;> ext i hi <;> interval_cases i <;> simp [encodeArg, Field.off]

/-- An `arg` with no foreign bit is ENCODE's of the operands read from it. -/
theorem encodeArg_of_operands {a : Word} (h : a &&& argField (Op.mustBeZero .encode) = 0) :
    encodeArg (a.extractLsb' (Field.off .mux) 3) (a.extractLsb' (Field.off .pga) 3) (a.extractLsb' (Field.off .mode) 1)
      (a.extractLsb' (Field.off .dr) 3) = a := by
  apply BitVec.eq_of_getLsbD_eq
  intro i hi
  have hbit : (0x801F : Word).getLsbD i = true → a.getLsbD i = false := getLsbD_of_and_eq_zero h
  clear h
  interval_cases i <;> simp [encodeArg, Field.off] at hbit ⊢ <;> exact hbit

/-- INIT's operands read back from its `arg`, the address by its low bits. -/
theorem initArg_operands (busIdx : Nat) (gain : BitVec 3) (addr : BitVec 8) (rate : Nat) :
    (initArg busIdx gain addr rate).extractLsb' 8 8 = BitVec.ofNat 8 busIdx ∧
    (initArg busIdx gain addr rate).extractLsb' 2 3 = gain ∧
    (initArg busIdx gain addr rate).extractLsb' 0 2 = addr.extractLsb' 0 2 ∧
    (initArg busIdx gain addr rate).extractLsb' 5 3 = BitVec.ofNat 3 rate := by
  unfold initArg
  generalize BitVec.ofNat 8 busIdx = b
  generalize BitVec.ofNat 3 rate = r
  refine ⟨?_, ?_, ?_, ?_⟩ <;> ext i hi <;> interval_cases i <;> simp

/-- The low bits of an address of the map give it back (20_memory.md R51). -/
theorem addr_of_low_bits : ∀ {addr : BitVec 8}, addrInMap addr = true →
    0x48 + (addr.extractLsb' 0 2).setWidth 8 = addr := by
  decide

/-- The address read from two low bits is one of the map, with those low bits. -/
theorem low_bits_addr : ∀ low : BitVec 2, addrInMap (0x48 + low.setWidth 8) = true ∧
    (0x48 + low.setWidth 8 : BitVec 8).extractLsb' 0 2 = low := by decide

/-- Every `arg` is INIT's of the operands read from it. -/
theorem initArg_of_operands (a : Word) :
    initArg (a.extractLsb' 8 8).toNat (a.extractLsb' 2 3) (0x48 + (a.extractLsb' 0 2).setWidth 8)
      (a.extractLsb' 5 3).toNat = a := by
  unfold initArg
  rw [(low_bits_addr _).2, BitVec.ofNat_toNat, BitVec.ofNat_toNat]
  apply BitVec.eq_of_getLsbD_eq
  intro i hi
  interval_cases i <;> simp

/-- RDSS's `arg` is its multiplexer code where no bit above it is set. -/
theorem setWidth_extractLsb' {a : Word} (h : a &&& argField (Op.mustBeZero .rdss) = 0) :
    (a.extractLsb' 0 3).setWidth 16 = a := by
  apply BitVec.eq_of_getLsbD_eq
  intro i hi
  have hbit : (0xFFF8 : Word).getLsbD i = true → a.getLsbD i = false := getLsbD_of_and_eq_zero h
  clear h
  interval_cases i <;> simp at hbit ⊢ <;> exact hbit

/-! ### Decoding and encoding are inverse (R101 to R105) -/

/-- A packed word with an `arg` only is decoded as its own operation. -/
theorem decode_packWord_arg (op : Op) {a : Word} (ha : argField op.mustBeZero &&& a = 0) :
    decode (packWord op 0 0 a) = decodeOperands op (packWord op 0 0 a) :=
  decode_packWord op 0 0 a BitVec.and_zero BitVec.and_zero ha

theorem decode_encode_encode {mux pga : BitVec 3} {mode : BitVec 1} {dr : BitVec 3} (h : gainCodeUsable pga = true) :
    decode (encode (.encode mux pga mode dr)) = .instr (.encode mux pga mode dr) := by
  obtain ⟨hmux, hpga, hmode, hdr, hzero⟩ := encodeArg_operands mux pga mode dr
  rw [encode, decode_packWord_arg .encode hzero]
  simp only [decodeOperands, argField_packWord, hmux, hpga, hmode, hdr, h, if_true]

theorem decode_encode_getf (f : Field) (w : Word) : decode (encode (.getf f w)) = .instr (.getf f w) := by
  rw [encode, decode_packWord .getf f.selector 0 w BitVec.zero_and BitVec.and_zero BitVec.zero_and]
  simp only [decodeOperands, fselField_packWord, argField_packWord, fieldOfSelector_selector]

theorem decode_encode_setf {f : Field} {v : BitVec 3} (w : Word) (h : codeFits f v = true) :
    decode (encode (.setf f v w)) = .instr (.setf f v w) := by
  rw [encode, decode_packWord .setf f.selector v w BitVec.zero_and BitVec.zero_and BitVec.zero_and]
  simp only [decodeOperands, fselField_packWord, valField_packWord, argField_packWord, fieldOfSelector_selector, h, if_true]

theorem decode_encode_init {busIdx : Nat} {gain : BitVec 3} {addr : BitVec 8} {rate : Nat} (hbus : busIdxFits busIdx = true)
    (hgain : gainCodeUsable gain = true) (haddr : addrInMap addr = true) (hrate : rateCodeOk rate = true) :
    decode (encode (.init busIdx gain addr rate)) = .instr (.init busIdx gain addr rate) := by
  obtain ⟨hb, hg, ha, hr⟩ := initArg_operands busIdx gain addr rate
  have hbn : busIdx % 2 ^ 8 = busIdx := Nat.mod_eq_of_lt (by simpa [busIdxFits] using hbus)
  have hrn : rate % 2 ^ 3 = rate := Nat.mod_eq_of_lt (Nat.lt_succ_of_le (by simpa [rateCodeOk] using hrate))
  rw [encode, decode_packWord_arg .init BitVec.zero_and]
  simp only [decodeOperands, argField_packWord, hb, hg, ha, hr, hgain, if_true, addr_of_low_bits haddr, BitVec.toNat_ofNat,
    hbn, hrn]

/-- Settles O2: each operation's word keeps its must-be-zero bits zero, and its operands read back from their places. -/
theorem decodeOfEncode : Obligations.DecodeOfEncode := by
  intro i hi
  cases i with
  | encode mux pga mode dr => exact decode_encode_encode hi
  | decode w =>
    rw [encode, decode_packWord_arg .decode BitVec.zero_and]
    simp only [decodeOperands, argField_packWord]
  | getf f w => exact decode_encode_getf f w
  | setf f v w => exact decode_encode_setf w hi
  | wrcfg w => exact decode_encode_wrcfg w
  | rdcfg | rdconv | rdthr | reset => decide
  | rdss m => exact decode_encode_rdss m
  | init busIdx gain addr rate =>
    simp only [Instr.wellFormed, Bool.and_eq_true] at hi
    obtain ⟨⟨⟨hbus, hgain⟩, haddr⟩, hrate⟩ := hi
    exact decode_encode_init hbus hgain haddr hrate

/-- A decoded word has a defined `op`, no must-be-zero bit set, and its operation's operands. -/
theorem decode_eq_instr {w : CmdWord} {i : Instr} (h : decode w = .instr i) :
    ∃ op : Op, op.code = opField w ∧ w &&& op.mustBeZero = 0 ∧ decodeOperands op w = .instr i := by
  unfold decode at h
  split at h
  · cases h
  · next op hop =>
    split at h
    · next hz => exact ⟨op, opOfCode_eq_some.1 hop, hz, h⟩
    · cases h

section Packed

variable {op : Op} {w : CmdWord}

/-- With no must-be-zero bit set a word is packed from its fields. -/
theorem packWord_eq (hop : op.code = opField w) (hz : w &&& op.mustBeZero = 0) :
    packWord op (fselField w) (valField w) (argField w) = w := by
  obtain ⟨-, hzero, -, -⟩ := (and_eq_zero_iff_fields (opField_mustBeZero op)).1 hz
  rw [zeroField_mustBeZero, BitVec.and_allOnes] at hzero
  exact packWord_fields hop hzero

theorem valField_eq_zero (hz : w &&& op.mustBeZero = 0) (hs : op ≠ .setf) : valField w = 0 := by
  obtain ⟨-, -, hval, -⟩ := (and_eq_zero_iff_fields (opField_mustBeZero op)).1 hz
  rwa [valField_mustBeZero, if_neg hs, BitVec.and_allOnes] at hval

theorem fselField_eq_zero (hz : w &&& op.mustBeZero = 0) (hg : op ≠ .getf) (hs : op ≠ .setf) : fselField w = 0 := by
  obtain ⟨hfsel, -⟩ := (and_eq_zero_iff_fields (opField_mustBeZero op)).1 hz
  rwa [fselField_mustBeZero, if_neg (not_or.2 ⟨hg, hs⟩), BitVec.and_allOnes] at hfsel

/-- Of an operation with no selector it is packed from its `arg` alone. -/
theorem packWord_arg_eq (hop : op.code = opField w) (hz : w &&& op.mustBeZero = 0) (hg : op ≠ .getf) (hs : op ≠ .setf) :
    packWord op 0 0 (argField w) = w := by
  have h := packWord_eq hop hz
  rwa [fselField_eq_zero hz hg hs, valField_eq_zero hz hs] at h

theorem argField_and_eq_zero (hz : w &&& op.mustBeZero = 0) : argField w &&& argField op.mustBeZero = 0 :=
  ((and_eq_zero_iff_fields (opField_mustBeZero op)).1 hz).2.2.2

end Packed

/-- A word whose operands decode is the encoding of their instruction, where no must-be-zero bit is set. -/
theorem encode_of_decodeOperands {op : Op} {w : CmdWord} {i : Instr} (hop : op.code = opField w)
    (hz : w &&& op.mustBeZero = 0) (h : decodeOperands op w = .instr i) : i.wellFormed = true ∧ encode i = w := by
  have harg := argField_and_eq_zero hz
  cases op with
  | encode =>
    simp only [decodeOperands] at h
    split at h <;> cases h
    next hgain => exact ⟨hgain, by rw [encode, encodeArg_of_operands harg, packWord_arg_eq hop hz nofun nofun]⟩
  | getf =>
    simp only [decodeOperands] at h
    split at h <;> cases h
    next hf =>
      have hpack := packWord_eq hop hz
      rw [valField_eq_zero hz nofun] at hpack
      exact ⟨rfl, by rw [encode, fieldOfSelector_eq_some.1 hf, hpack]⟩
  | setf =>
    simp only [decodeOperands] at h
    split at h
    · next hf =>
      split at h <;> cases h
      next hfits => exact ⟨hfits, by rw [encode, fieldOfSelector_eq_some.1 hf, packWord_eq hop hz]⟩
    · cases h
  | decode | wrcfg =>
    cases h
    exact ⟨rfl, packWord_arg_eq hop hz nofun nofun⟩
  | rdcfg | rdconv | rdthr | reset =>
    cases h
    have hzero : argField w = 0 := not_not.1 ((argField_and_mustBeZero _ _).1 harg)
    have hpack := packWord_arg_eq hop hz nofun nofun
    rw [hzero] at hpack
    exact ⟨rfl, hpack⟩
  | rdss =>
    cases h
    exact ⟨rfl, by rw [encode, setWidth_extractLsb' harg, packWord_arg_eq hop hz nofun nofun]⟩
  | init =>
    simp only [decodeOperands] at h
    split at h <;> cases h
    next hgain =>
      have hrate : rateCodeOk ((argField w).extractLsb' 5 3).toNat = true := decide_eq_true (by omega)
      have hbus : busIdxFits ((argField w).extractLsb' 8 8).toNat = true := decide_eq_true (by omega)
      refine ⟨?_, by rw [encode, initArg_of_operands, packWord_arg_eq hop hz nofun nofun]⟩
      simp only [Instr.wellFormed, hbus, hgain, (low_bits_addr _).1, hrate, Bool.and_self]

/-- Settles O3: no must-be-zero bit is set in a decoded word, so that it is packed from the operands read from it. -/
theorem encodeOfDecoded : Obligations.EncodeOfDecoded := by
  intro w i h
  obtain ⟨op, hop, hz, hi⟩ := decode_eq_instr h
  exact encode_of_decodeOperands hop hz hi

end Sys2Proof

/-! ## Proofs: well-formed and ill-formed command words at the port (family 30_encoding.md) -/

namespace Sys2Proof.Machine

/-! ### What breaks a word of an operation (30_encoding.md R107) -/

/-- A selector, a field code or a gain code of the word is out of range (R105, R107). -/
def OperandBroken (op : Op) (w : CmdWord) : Prop :=
  ((op = .getf ∨ op = .setf) ∧ 9 ≤ (fselField w).toNat) ∨
    (op = .setf ∧ ∃ f, fieldOfSelector (fselField w) = some f ∧ 2 ^ f.width ≤ (valField w).toNat) ∨
    (op = .encode ∧ 6 ≤ (w.extractLsb' 9 3).toNat) ∨ (op = .init ∧ 6 ≤ (w.extractLsb' 2 3).toNat)

theorem wordBroken_iff {op : Op} {w : CmdWord} : WordBroken op w ↔ ZeroBroken op w ∨ OperandBroken op w := Iff.rfl

/-- The gain codes that name no GainSetting are 6 and 7 (R87, R107). -/
theorem gainCodeUsable_eq_false : ∀ {g : BitVec 3}, gainCodeUsable g = false ↔ 6 ≤ g.toNat := by decide

theorem operandBroken_encode {w : CmdWord} :
    OperandBroken .encode w ↔ gainCodeUsable ((argField w).extractLsb' (Field.off .pga) 3) = false := by
  rw [argField, BitVec.extractLsb'_extractLsb'_of_le (by decide)]
  simp [OperandBroken, gainCodeUsable_eq_false, Field.off]

theorem operandBroken_getf {w : CmdWord} : OperandBroken .getf w ↔ fieldOfSelector (fselField w) = none := by
  simp [OperandBroken, fieldOfSelector_eq_none]

theorem operandBroken_setf {w : CmdWord} :
    OperandBroken .setf w ↔ ∀ f, fieldOfSelector (fselField w) = some f → codeFits f (valField w) = false := by
  cases hf : fieldOfSelector (fselField w) with
  | none => simp [OperandBroken, fieldOfSelector_eq_none.1 hf]
  | some f =>
    have hsel : ¬9 ≤ (fselField w).toNat := fun h => by rw [fieldOfSelector_eq_none.2 h] at hf; cases hf
    simp [OperandBroken, hf, hsel, codeFits]

theorem operandBroken_init {w : CmdWord} :
    OperandBroken .init w ↔ gainCodeUsable ((argField w).extractLsb' 2 3) = false := by
  rw [argField, BitVec.extractLsb'_extractLsb'_of_le (by decide)]
  simp [OperandBroken, gainCodeUsable_eq_false]

/-- The decoder finds an operand out of range exactly where R107 does, and names the operation either way. -/
theorem decodeOperands_cases (op : Op) (w : CmdWord) :
    (¬OperandBroken op w ∧ ∃ i, decodeOperands op w = .instr i ∧ i.op = op) ∨
    (OperandBroken op w ∧ ∃ what, decodeOperands op w = .error (.illFormed op what)) := by
  cases op with
  | encode =>
    simp only [operandBroken_encode, decodeOperands]
    split
    · next hgain => exact .inl ⟨by simp [hgain], _, rfl, rfl⟩
    · next hgain => exact .inr ⟨by simpa using hgain, _, rfl⟩
  | getf =>
    simp only [operandBroken_getf, decodeOperands]
    split
    · next hf => exact .inl ⟨by simp [hf], _, rfl, rfl⟩
    · next hf => exact .inr ⟨hf, _, rfl⟩
  | setf =>
    simp only [operandBroken_setf, decodeOperands]
    split
    · next hf =>
      split
      · next hfits => exact .inl ⟨by simp [hf, hfits], _, rfl, rfl⟩
      · next hfits => exact .inr ⟨by simpa [hf] using hfits, _, rfl⟩
    · next hf => exact .inr ⟨by simp [hf], _, rfl⟩
  | init =>
    simp only [operandBroken_init, decodeOperands]
    split
    · next hgain => exact .inl ⟨by simp [hgain], _, rfl, rfl⟩
    · next hgain => exact .inr ⟨by simpa using hgain, _, rfl⟩
  | _ => exact .inl ⟨by simp [OperandBroken], _, rfl, rfl⟩

theorem decode_of_code {op : Op} {w : CmdWord} (hop : op.code = opField w) :
    decode w = if w &&& op.mustBeZero = 0 then decodeOperands op w else .error (.illFormed op .mustBeZero) := by
  unfold decode; rw [opOfCode_eq_some.2 hop]

/-- Settles O4: no must-be-zero bit is set, and no operand is out of range. -/
theorem unbrokenWordDecodes : Obligations.UnbrokenWordDecodes := by
  intro w op hop hw
  rw [wordBroken_iff, not_or] at hw
  obtain ⟨hz, ho⟩ := hw
  rw [decode_of_code hop, if_pos (and_mustBeZero_eq_zero.2 hz)]
  rcases decodeOperands_cases op w with ⟨-, h⟩ | ⟨hb, -⟩
  · exact h
  · exact absurd hb ho

theorem decode_of_wordBroken {op : Op} {w : CmdWord} (hop : op.code = opField w) (hw : WordBroken op w) :
    ∃ what, decode w = .error (.illFormed op what) := by
  rw [decode_of_code hop]
  split
  · next hz =>
    rcases decodeOperands_cases op w with ⟨ho, -⟩ | ⟨-, h⟩
    · exact absurd hw (not_or.2 ⟨and_mustBeZero_eq_zero.1 hz, ho⟩)
    · exact h
  · exact ⟨_, rfl⟩

/-! ### The step that takes a word -/

theorem step_of_not_suspended {s : State} (hs : s.suspended = none) : step s = takeNext s := by
  unfold step; rw [hs]

theorem takeNext_of_instr {s : State} {r : Request} {rest : List Request} {i : Instr} (hp : s.port = r :: rest)
    (hd : decode r.word = .instr i) : takeNext s = exec i (takeRequest r rest s) := by
  unfold takeNext; rw [hp]; simp only [hd]

theorem takeNext_of_error {s : State} {r : Request} {rest : List Request} {e : DecodeError} (hp : s.port = r :: rest)
    (hd : decode r.word = .error e) : takeNext s = rejectWord e (takeRequest r rest s) := by
  unfold takeNext; rw [hp]; simp only [hd]

/-- Where a command of the operation is accepted, its ill-formed word is answered with ConfigurationError. -/
theorem rejectIllFormed_of_accepts {op : Op} {s : State} (h : Accepts op s) (what : Operand) :
    rejectIllFormed op what s = .next (raiseConfiguration what s) := by
  cases op with
  | encode | decode | getf | setf => exact (needCodec_eq_next s).2 ⟨h, rfl⟩
  | wrcfg | rdcfg | rdconv | rdthr | rdss =>
    obtain ⟨hmade, hidle, hopen⟩ := h
    exact (needOpen_eq_next s).2 ⟨⟨hmade, hopen⟩, hidle, rfl⟩
  | reset =>
    obtain ⟨hmade, hidle⟩ := h
    exact (needMade_eq_next s).2 ⟨hmade, hidle, rfl⟩
  | init => exact (needNoInstance_eq_next s).2 ⟨by simpa [Accepts, Live] using h, rfl⟩

/-- Taking a request changes nothing that acceptance depends on. -/
theorem accepts_takeRequest {op : Op} {s : State} (h : Accepts op s) (r : Request) (rest : List Request) :
    Accepts op (takeRequest r rest s) := by cases op <;> exact h

/-- Settles O5: the word decodes to an error of its operation, which the block accepts. -/
theorem brokenWordIsConfigurationError : Obligations.BrokenWordIsConfigurationError := by
  intro s r rest op hs hp hop hw hacc
  obtain ⟨what, hd⟩ := decode_of_wordBroken hop hw
  refine ⟨what, ?_⟩
  rw [step_of_not_suspended hs, takeNext_of_error hp hd]
  exact rejectIllFormed_of_accepts (accepts_takeRequest hacc r rest) what

/-- Settles O6: an `op` of 0xB or more selects no operation. -/
theorem reservedOpcodeRefused : Obligations.ReservedOpcodeRefused := by
  intro s r rest hs hp hop
  have hcode : ∀ c : BitVec 4, 0xB ≤ c.toNat → opOfCode c = none := by decide
  have hnum : (opField r.word).toNat = r.word.toNat / 2 ^ 28 := by
    rw [opField, BitVec.extractLsb'_toNat, Nat.shiftRight_eq_div_pow, Nat.mod_eq_of_lt (by omega)]
  have hd : decode r.word = .error (.reservedOpcode (opField r.word)) := by
    unfold decode; rw [hcode _ (hnum ▸ hop)]
  rw [step_of_not_suspended hs, takeNext_of_error hp hd]
  rfl

/-- Settles O7: the two cases of `step`, each with the request taken. -/
theorem stepRunsDecoded : Obligations.StepRunsDecoded := by
  intro s r rest i hp hd
  refine ⟨fun hs => ?_, fun p hs => ?_⟩
  · rw [step_of_not_suspended hs, takeNext_of_instr hp hd]; rfl
  · unfold step
    rw [hs]
    simp only [takeNext_of_instr (s := dropGap s) hp hd]
    rfl

/-! ### An ill-formed word in a gap -/

theorem beginWord_illFormed {op : Op} {what : Operand} {s : State} (hop : op ≠ .init) (hopen : s.isOpen = true) :
    beginWord (.error (.illFormed op what)) s = some (raiseConfiguration what s) := if_pos (.inr ⟨hop, hopen⟩)

/-- One move of the other agent in a gap, whose word at the head of the port is ill-formed. -/
theorem gap_illFormed {s : State} {w : CmdWord} {op : Op} {what : Operand} {grest : List Nat} {prest : List Request}
    (hopen : s.isOpen = true) (hscope : s.scope = .perAccess) (hsus : s.suspended = none) (hgaps : s.gaps = 1 :: grest)
    (hport : s.port = ⟨otherOf s.who, w⟩ :: prest) (hd : decode w = .error (.illFormed op what)) (hop : op ≠ .init) :
    gap s = { s with
      gaps := grest
      port := prest
      delivered := ⟨otherOf s.who, .err (.configurationError what)⟩ :: s.delivered } := by
  have hfirst : takeFirst (otherOf s.who) s.port = some (w, prest) := by simp [hport, takeFirst]
  rw [gap_perAccess s hscope, nextGap_cons s hgaps, dropGap_cons s hgaps, otherMoves, otherMoves,
    otherMove_at_port { s with gaps := grest } hsus hfirst, hd, beginWord_illFormed hop (by exact hopen)]
  rfl

/-- Settles O45: the gap after RDSS's write is the answer to the word, and leaves the device to RDSS's settle wait. -/
theorem illFormedWordAnsweredInGap : Obligations.IllFormedWordAnsweredInGap := by
  intro s m w op what a b arest grest prest h hscope hsus hs ha hb hgaps hport hd hop
  have ⟨_, hopen, _⟩ := h
  have hpending : (rdssWritten m a (b :: arest) s).device.convPending ≠ 0 := by
    rw [rdssWritten, accept_singleShot_convPending s _ m a ha]; omega
  have hread := Device.settled_value_draw (rdssWritten m a (b :: arest) s).device s.who b (.inl ⟨rfl, hpending⟩)
  rw [exec_rdss_eq h hs ha m, gap_illFormed (s := rdssWritten m a (b :: arest) s) hopen hscope hsus hgaps hport hd hop,
    finishRest_afterSettle_cons rfl hb]
  refine ⟨_, rfl, rfl, hsus, ?_⟩
  exact congrArg (fun v => ⟨s.who, .ok (.word v)⟩ ::
    ⟨otherOf s.who, .err (.configurationError what)⟩ :: s.delivered) hread

/-! ## Proofs: statuses and response lines (family 30_encoding.md R102) -/

/-- The responses are the earlier ones with some of status 0, 1 or 2 in front. -/
def DeliveredExtended (s t : State) : Prop :=
  ∃ new, t.delivered = new ++ s.delivered ∧ ∀ d ∈ new, (statusCode d.resp).toNat ≤ 2

theorem DeliveredExtended.of_eq {s t : State} (h : t.delivered = s.delivered) : DeliveredExtended s t := ⟨[], h, nofun⟩

theorem DeliveredExtended.trans (s t u : State) (h : DeliveredExtended s t) (k : DeliveredExtended t u) :
    DeliveredExtended s u := by
  obtain ⟨new, hl, hn⟩ := h
  obtain ⟨later, kl, kn⟩ := k
  refine ⟨later ++ new, by rw [kl, hl, List.append_assoc], fun d hd => ?_⟩
  exact (List.mem_append.1 hd).elim (kn d) (hn d)

theorem respond_deliveredExtended (s : State) {r : Response} (h : (statusCode r).toNat ≤ 2) :
    DeliveredExtended s (s.respond r) := ⟨[⟨s.who, r⟩], rfl, by simpa using h⟩

/-- The only moves that deliver respond with `ok`, BusError or ConfigurationError. -/
theorem Move.deliveredExtended (s t : State) (h : Move s t) : DeliveredExtended s t := by
  cases h with
  | write a w ans =>
    obtain ⟨d, l, hframe⟩ := busWrite_frame s a w ans
    rw [hframe]
    exact .of_eq rfl
  | read a i ans =>
    obtain ⟨d, hframe⟩ := busRead_frame s a i ans
    rw [hframe]
    exact .of_eq rfl
  | ok p => exact respond_deliveredExtended s (by decide : (statusCode (.ok .none)).toNat ≤ 2)
  | busError i dir => exact respond_deliveredExtended s (by decide : (1 : BitVec 4).toNat ≤ 2)
  | configurationError what => exact respond_deliveredExtended s (by decide : (2 : BitVec 4).toNat ≤ 2)
  | _ => exact .of_eq rfl

theorem Moves.deliveredExtended {s t : State} (h : Moves s t) : DeliveredExtended s t :=
  h.keeps (fun _ => .of_eq rfl) DeliveredExtended.trans Move.deliveredExtended

/-- A construction responds `ok` after the moves before it. -/
theorem Constructs.deliveredExtended {s t : State} (h : Constructs s t) : DeliveredExtended s t := by
  obtain ⟨u, b, g, a, r, hm, -, rfl⟩ := h
  exact .trans _ _ _ hm.deliveredExtended (respond_deliveredExtended (construct b g a r u) (r := .ok .none) (by decide))

/-- Settles O10: every response comes of a move, or of a construction after moves. -/
theorem statusIsOkBusOrConfiguration : Obligations.StatusIsOkBusOrConfiguration :=
  ⟨fun _ _ _ h => (exec_moves_or_constructs h).elim Moves.deliveredExtended Constructs.deliveredExtended,
    fun _ _ h => (step_moves_or_constructs h).elim Moves.deliveredExtended Constructs.deliveredExtended⟩

/-- Settles O11: a word stands below the free half; a pair is the high word above the low one. -/
theorem responseLinesCarryPayload : Obligations.ResponseLinesCarryPayload := by
  intro free w lo hi
  have hpair : (hi ++ lo).toNat = hi.toNat * 65536 + lo.toNat := by
    rw [BitVec.toNat_append, ← Nat.shiftLeft_add_eq_or_of_lt lo.isLt, Nat.shiftLeft_eq]
  exact ⟨BitVec.extractLsb'_append_eq_right, BitVec.extractLsb'_append_eq_right, hpair⟩

/-! ## Proofs: the configuration word's masks and the raw code (family 30_encoding.md R83, R84, R97) -/

/-- Settles O12: the table's numbers, computed. -/
theorem fieldMaskNumbers : Obligations.FieldMaskNumbers := by
  unfold Obligations.FieldMaskNumbers; decide

/-- A mask is the run of the field's `width` bits from its offset up (R83). -/
theorem fieldMask_getLsbD (f : Field) (n : Nat) :
    (fieldMask f).getLsbD n = decide (f.off ≤ n ∧ n < f.off + f.width) := by
  have hlow : ∀ n < 16, (fieldMask f).getLsbD n = decide (f.off ≤ n ∧ n < f.off + f.width) := by cases f <;> decide
  have htop : f.off + f.width ≤ 16 := by cases f <;> decide
  by_cases hn : n < 16
  · exact hlow n hn
  · rw [BitVec.getLsbD_of_ge _ _ (by omega)]
    exact (decide_eq_false (by omega)).symm

/-- The runs of distinct fields do not meet (R84). -/
theorem fieldMask_and_eq_zero {f g : Field} (h : f ≠ g) : fieldMask f &&& fieldMask g = 0 := by
  have hapart : f ≠ g → f.off + f.width ≤ g.off ∨ g.off + g.width ≤ f.off := by cases f <;> cases g <;> decide
  have := hapart h
  apply BitVec.eq_of_getLsbD_eq
  intro i _
  simp only [BitVec.getLsbD_and, fieldMask_getLsbD, BitVec.ofNat_eq_ofNat, BitVec.getLsbD_zero, Bool.and_eq_false_iff,
    decide_eq_false_iff_not]
  omega

/-- Settles O13: disjoint, covering and summing by the numbers; each a run of bits at every position. -/
theorem fieldMasksPartitionWord : Obligations.FieldMasksPartitionWord :=
  ⟨fun f g => fieldMask_and_eq_zero, by decide, by decide, fieldMask_getLsbD⟩

/-- Settles O22: `sint16` subtracts 2^16 from 0x8000 up, as two's complement does. -/
theorem rawCodeIsTwosComplement : Obligations.RawCodeIsTwosComplement := by
  refine ⟨fun w => ?_, by decide, by decide, by decide, by decide⟩
  have hint : sint16 w = w.toInt := by
    rw [BitVec.toInt_eq_toNat_cond, sint16]
    split <;> split <;> omega
  have := w.isLt
  refine ⟨hint, ?_, ?_⟩ <;> unfold sint16 <;> split <;> omega

/-- Settles O1: each worked word of R106, computed. -/
theorem workedEncodingsDecode : Obligations.WorkedEncodingsDecode := by
  unfold Obligations.WorkedEncodingsDecode; decide

end Sys2Proof.Machine

/-! ## Proofs: the configuration word's fields (family 40_codec.md) -/

namespace Sys2Proof.Machine

/-! ### Where a field's code stands (30_encoding.md R82, R83) -/

section Fields

variable {f g : Field} {v u w x : Word}

/-- Every field lies within the word. -/
theorem off_add_width_le (f : Field) : f.off + f.width ≤ 16 := by cases f <;> decide

/-- A code that fits sets no bit outside its field's mask. -/
theorem placeCode_getLsbD_outside (hv : v.toNat < 2 ^ f.width) {i : Nat} (hi : (fieldMask f).getLsbD i = false) :
    (placeCode f v).getLsbD i = false := by
  rw [fieldMask_getLsbD, decide_eq_false_iff_not] at hi
  rw [placeCode, BitVec.getLsbD_shiftLeft]
  by_cases hlow : i < f.off
  · simp [hlow]
  · have hle : 2 ^ f.width ≤ 2 ^ (i - f.off) := Nat.pow_le_pow_right (by decide) (by omega)
    have : v.getLsbD (i - f.off) = false := Nat.testBit_lt_two_pow (hv.trans_le hle)
    simp [this]

theorem placeCode_and_fieldMask (hv : v.toNat < 2 ^ f.width) : placeCode f v &&& fieldMask f = placeCode f v := by
  apply BitVec.eq_of_getLsbD_eq
  intro i _
  rw [BitVec.getLsbD_and]
  cases hm : (fieldMask f).getLsbD i
  · rw [placeCode_getLsbD_outside hv hm, Bool.and_false]
  · rw [Bool.and_true]

/-- Inserting a code that fits writes the bits under the field's mask and no other. -/
theorem insertField_getLsbD (hv : v.toNat < 2 ^ f.width) {i : Nat} (hi : i < 16) :
    (insertField w f v).getLsbD i = if (fieldMask f).getLsbD i then (placeCode f v).getLsbD i else w.getLsbD i := by
  rw [insertField, fieldClear, BitVec.getLsbD_or, BitVec.getLsbD_and, BitVec.getLsbD_not]
  cases hm : (fieldMask f).getLsbD i
  · rw [placeCode_getLsbD_outside hv hm]
    simp [hi]
  · simp

/-- Distinct fields have no bit in common (R84). -/
theorem fieldMask_getLsbD_of_ne (h : f ≠ g) {i : Nat} (hi : (fieldMask f).getLsbD i = true) :
    (fieldMask g).getLsbD i = false :=
  getLsbD_of_and_eq_zero ((BitVec.and_comm _ _).trans (fieldMask_and_eq_zero h)) hi

/-- A field is read from the bits under its mask alone. -/
theorem extractField_congr (h : w &&& fieldMask f = x &&& fieldMask f) : extractField w f = extractField x f := by
  rw [extractField, h, extractField]

/-- A code read is one that fits. -/
theorem extractField_lt (w : Word) (f : Field) : (extractField w f).toNat < 2 ^ f.width := by
  rw [extractField_toNat]
  exact Nat.mod_lt _ (Nat.two_pow_pos _)

/-- A code read and put in place is the word's bits under the mask. -/
theorem placeCode_extractField (w : Word) (f : Field) : placeCode f (extractField w f) = w &&& fieldMask f := by
  apply BitVec.eq_of_getLsbD_eq
  intro i hi
  rw [placeCode, extractField, BitVec.getLsbD_shiftLeft, BitVec.getLsbD_ushiftRight]
  by_cases hlow : i < f.off
  · have : (fieldMask f).getLsbD i = false := by rw [fieldMask_getLsbD, decide_eq_false (by omega)]
    simp [hlow, this]
  · simp [hlow, hi, show f.off + (i - f.off) = i by omega]

/-- A code that fits loses no bit when it is put in place. -/
theorem placeCode_toNat (hv : v.toNat < 2 ^ f.width) : (placeCode f v).toNat = v.toNat * 2 ^ f.off := by
  have hfit : v.toNat * 2 ^ f.off < 2 ^ 16 := calc
    v.toNat * 2 ^ f.off < 2 ^ f.width * 2 ^ f.off := Nat.mul_lt_mul_of_pos_right hv (Nat.two_pow_pos _)
    _ = 2 ^ (f.off + f.width) := by rw [Nat.add_comm, Nat.pow_add]
    _ ≤ 2 ^ 16 := Nat.pow_le_pow_right (by decide) (off_add_width_le f)
  rw [placeCode, BitVec.toNat_shiftLeft, Nat.shiftLeft_eq, Nat.mod_eq_of_lt hfit]

theorem extractField_placeCode (hv : v.toNat < 2 ^ f.width) : extractField (placeCode f v) f = v := by
  apply BitVec.eq_of_toNat_eq
  rw [extractField_toNat, placeCode_toNat hv, Nat.mul_div_cancel _ (Nat.two_pow_pos _), Nat.mod_eq_of_lt hv]

theorem extractField_placeCode_of_ne (hv : v.toNat < 2 ^ f.width) (h : g ≠ f) : extractField (placeCode f v) g = 0 := by
  rw [extractField, ← placeCode_and_fieldMask hv, BitVec.and_assoc, fieldMask_and_eq_zero h.symm]
  simp

theorem extractField_or (w x : Word) (f : Field) : extractField (w ||| x) f = extractField w f ||| extractField x f := by
  simp only [extractField, BitVec.and_or_distrib_right, BitVec.ushiftRight_or_distrib]

/-! ### The laws of insert and extract (40_codec.md R128) -/

theorem extractField_insertField_self (hv : v.toNat < 2 ^ f.width) : extractField (insertField w f v) f = v := by
  refine (extractField_congr ?_).trans (extractField_placeCode hv)
  apply BitVec.eq_of_getLsbD_eq
  intro i hi
  rw [BitVec.getLsbD_and, BitVec.getLsbD_and, insertField_getLsbD hv hi]
  cases (fieldMask f).getLsbD i <;> simp

theorem extractField_insertField_of_ne (hv : v.toNat < 2 ^ f.width) (h : g ≠ f) :
    extractField (insertField w f v) g = extractField w g := by
  apply extractField_congr
  apply BitVec.eq_of_getLsbD_eq
  intro i hi
  rw [BitVec.getLsbD_and, BitVec.getLsbD_and, insertField_getLsbD hv hi]
  cases hg : (fieldMask g).getLsbD i
  · simp
  · simp [fieldMask_getLsbD_of_ne h hg]

/-- Inserting the code a field holds changes nothing. -/
theorem insertField_extractField (w : Word) (f : Field) : insertField w f (extractField w f) = w := by
  apply BitVec.eq_of_getLsbD_eq
  intro i hi
  rw [insertField_getLsbD (extractField_lt w f) hi, placeCode_extractField, BitVec.getLsbD_and]
  cases (fieldMask f).getLsbD i <;> simp

/-- Inserts into distinct fields commute. -/
theorem insertField_comm (hv : v.toNat < 2 ^ f.width) (hu : u.toNat < 2 ^ g.width) (h : f ≠ g) :
    insertField (insertField w f v) g u = insertField (insertField w g u) f v := by
  apply BitVec.eq_of_getLsbD_eq
  intro i hi
  simp only [insertField_getLsbD hv hi, insertField_getLsbD hu hi]
  cases hf : (fieldMask f).getLsbD i
  · simp
  · simp [fieldMask_getLsbD_of_ne h hf]

/-- Of two inserts into one field the later stays. -/
theorem insertField_insertField (hv : v.toNat < 2 ^ f.width) (hu : u.toNat < 2 ^ f.width) :
    insertField (insertField w f v) f u = insertField w f u := by
  apply BitVec.eq_of_getLsbD_eq
  intro i hi
  simp only [insertField_getLsbD hv hi, insertField_getLsbD hu hi]
  cases (fieldMask f).getLsbD i <;> simp

/-- In a field that holds zero no bit is set. -/
theorem and_fieldMask_of_extractField_eq_zero (h : extractField w f = 0) : w &&& fieldMask f = 0 := by
  rw [← placeCode_extractField, h]
  exact BitVec.zero_shiftLeft _

/-- Into such a field an OR adds the code at the field's weight. -/
theorem or_placeCode_toNat (hv : v.toNat < 2 ^ f.width) (h : extractField w f = 0) :
    (w ||| placeCode f v).toNat = w.toNat + v.toNat * 2 ^ f.off := by
  have hdisjoint : w &&& placeCode f v = 0 := by
    rw [← placeCode_and_fieldMask hv, BitVec.and_comm (placeCode f v), ← BitVec.and_assoc,
      and_fieldMask_of_extractField_eq_zero h]
    exact BitVec.zero_and
  rw [← BitVec.add_eq_or_of_and_eq_zero _ _ hdisjoint, BitVec.toNat_add_of_and_eq_zero hdisjoint, placeCode_toNat hv]

/-- A word is the OR of its nine codes in place: the masks cover it (R84). -/
theorem eq_or_placeCode_extractField (w : Word) :
    w = placeCode .os (extractField w .os) ||| placeCode .mux (extractField w .mux) |||
      placeCode .pga (extractField w .pga) ||| placeCode .mode (extractField w .mode) |||
      placeCode .dr (extractField w .dr) ||| placeCode .cmode (extractField w .cmode) |||
      placeCode .cpol (extractField w .cpol) ||| placeCode .clat (extractField w .clat) |||
      placeCode .cque (extractField w .cque) := by
  simp only [placeCode_extractField, ← BitVec.and_or_distrib_left]
  rw [fieldMasksPartitionWord.2.1]
  exact BitVec.and_allOnes.symm

/-- Words with the same nine codes are one. -/
theorem word_ext_fields (h : ∀ f, extractField w f = extractField x f) : w = x := by
  rw [eq_or_placeCode_extractField w, eq_or_placeCode_extractField x]
  simp only [h]

theorem toNat_setWidth_extractField (w : Word) (f : Field) :
    ((extractField w f).setWidth f.width).toNat = (extractField w f).toNat := by
  rw [BitVec.toNat_setWidth, Nat.mod_eq_of_lt (extractField_lt w f)]

/-- Of a code narrowed to its field's width nothing is lost. -/
theorem setWidth_extractField (w : Word) (f : Field) :
    ((extractField w f).setWidth f.width).setWidth 16 = extractField w f := by
  apply BitVec.eq_of_toNat_eq
  rw [BitVec.toNat_setWidth_of_le (Nat.le_of_add_left_le (off_add_width_le f)), toNat_setWidth_extractField]

/-- Settles O20: a code that fits is written under its field's mask alone, and the masks are disjoint. -/
theorem fieldsIndependent : Obligations.FieldsIndependent := by
  intro w f g v u hv hu
  refine ⟨extractField_insertField_self hv, insertField_extractField w f, fun h => ?_, fun h => ?_⟩
  · exact ⟨extractField_insertField_of_ne hv h.symm, insertField_comm hv hu h⟩
  · subst h
    exact insertField_insertField hv hu

end Fields

/-! ### The word ENCODE builds (40_codec.md R123) -/

section EncodedWord

variable (mux pga : BitVec 3) (mode : BitVec 1) (dr : BitVec 3)

/-- A code widened to a word is below two to its own width. -/
theorem toNat_setWidth_lt {n : Nat} (v : BitVec n) (h : n ≤ 16) : (v.setWidth 16).toNat < 2 ^ n := by
  rw [BitVec.toNat_setWidth_of_le h]
  exact v.isLt

theorem encodeWord_eq_template_or_arg : encodeWord mux pga mode dr = template ||| encodeArg mux pga mode dr := by
  simp only [encodeWord, encodeArg, placeCode, BitVec.or_assoc]

theorem overrides_fit :
    (mux.setWidth 16).toNat < 2 ^ Field.width .mux ∧ (pga.setWidth 16).toNat < 2 ^ Field.width .pga ∧
    (mode.setWidth 16).toNat < 2 ^ Field.width .mode ∧ (dr.setWidth 16).toNat < 2 ^ Field.width .dr :=
  ⟨toNat_setWidth_lt mux (by decide), toNat_setWidth_lt pga (by decide), toNat_setWidth_lt mode (by decide),
    toNat_setWidth_lt dr (by decide)⟩

/-- TEMPLATE leaves the overridden fields zero (30_encoding.md R94). -/
theorem extractField_template :
    extractField template .mux = 0 ∧ extractField template .pga = 0 ∧ extractField template .mode = 0 ∧
    extractField template .dr = 0 := by decide

/-- The code ENCODE gives each field: the override, or TEMPLATE's. -/
def encodedCode : Field → Word
  | .mux => mux.setWidth 16
  | .pga => pga.setWidth 16
  | .mode => mode.setWidth 16
  | .dr => dr.setWidth 16
  | f => extractField template f

theorem extractField_encodeWord (f : Field) :
    extractField (encodeWord mux pga mode dr) f = encodedCode mux pga mode dr f := by
  obtain ⟨fitMux, fitPga, fitMode, fitDr⟩ := overrides_fit mux pga mode dr
  obtain ⟨zeroMux, zeroPga, zeroMode, zeroDr⟩ := extractField_template
  cases f <;>
    simp only [encodeWord, encodedCode, extractField_or, extractField_placeCode, extractField_placeCode_of_ne, ne_eq,
      reduceCtorEq, not_false_eq_true, fitMux, fitPga, fitMode, fitDr, zeroMux, zeroPga, zeroMode, zeroDr,
      BitVec.ofNat_eq_ofNat, BitVec.or_zero, BitVec.zero_or]

/-- ENCODE's word is TEMPLATE with the four overrides set. -/
theorem encodeWord_eq_insertField :
    encodeWord mux pga mode dr =
      insertField (insertField (insertField (insertField template .mux (mux.setWidth 16)) .pga (pga.setWidth 16))
        .mode (mode.setWidth 16)) .dr (dr.setWidth 16) := by
  obtain ⟨fitMux, fitPga, fitMode, fitDr⟩ := overrides_fit mux pga mode dr
  apply word_ext_fields
  intro f
  rw [extractField_encodeWord]
  cases f <;>
    simp only [encodedCode, extractField_insertField_self, extractField_insertField_of_ne, ne_eq, reduceCtorEq,
      not_false_eq_true, fitMux, fitPga, fitMode, fitDr]

/-- Each override goes into a field that held zero, so ENCODE's word is a sum. -/
theorem encodeWord_toNat :
    (encodeWord mux pga mode dr).toNat =
      0x8003 + mux.toNat * 4096 + pga.toNat * 512 + mode.toNat * 256 + dr.toNat * 32 := by
  obtain ⟨fitMux, fitPga, fitMode, fitDr⟩ := overrides_fit mux pga mode dr
  obtain ⟨zeroMux, zeroPga, zeroMode, zeroDr⟩ := extractField_template
  have widen {n : Nat} (v : BitVec n) (h : n ≤ 16) : (v.setWidth 16).toNat = v.toNat := BitVec.toNat_setWidth_of_le h
  rw [encodeWord, or_placeCode_toNat fitDr, or_placeCode_toNat fitMode, or_placeCode_toNat fitPga,
    or_placeCode_toNat fitMux zeroMux, widen mux (by decide), widen pga (by decide), widen mode (by decide),
    widen dr (by decide)]
  · rfl
  all_goals
    simp only [extractField_or, extractField_placeCode_of_ne, ne_eq, reduceCtorEq, not_false_eq_true, fitMux, fitPga,
      fitMode, zeroPga, zeroMode, zeroDr, BitVec.ofNat_eq_ofNat, BitVec.or_zero]

/-- Outside the overridden fields ENCODE's word is TEMPLATE. -/
theorem encodeWord_and_foreign : encodeWord mux pga mode dr &&& 0x801F = template &&& 0x801F := by
  obtain ⟨-, -, -, -, hforeign⟩ := encodeArg_operands mux pga mode dr
  have harg : encodeArg mux pga mode dr &&& 0x801F = 0 := (BitVec.and_comm _ _).trans hforeign
  rw [encodeWord_eq_template_or_arg, BitVec.and_or_distrib_right, harg]
  exact BitVec.or_zero

/-- The overridden fields' masks and the rest make up the word. -/
theorem eq_foreign_or_overridden (w : Word) : w = (w &&& 0x801F) ||| (w &&& 0x7FE0) := by
  rw [← BitVec.and_or_distrib_left]
  exact BitVec.and_allOnes.symm

/-- Settles O19: the override is the field's code, and outside the overridden fields the word is TEMPLATE. -/
theorem encodeSetsNoForeignBit : Obligations.EncodeSetsNoForeignBit := by
  intro mux pga mode dr r
  have masked (f : Field) : r &&& fieldMask f = placeCode f (encodedCode mux pga mode dr f) := by
    rw [← placeCode_extractField, extractField_encodeWord]
  have hforeign : r &&& 0x801F = template &&& 0x801F := encodeWord_and_foreign mux pga mode dr
  refine ⟨masked .mux, masked .pga, masked .mode, masked .dr, hforeign, ?_⟩
  have hxor : (r ^^^ template) &&& 0x801F = 0 := by
    apply BitVec.eq_of_getLsbD_eq
    intro i _
    rw [BitVec.getLsbD_and, BitVec.getLsbD_xor, Bool.and_xor_distrib_right, ← BitVec.getLsbD_and, ← BitVec.getLsbD_and,
      hforeign, Bool.xor_self]
    exact BitVec.getLsbD_zero.symm
  have hsplit := eq_foreign_or_overridden (r ^^^ template)
  rw [hxor] at hsplit
  exact (hsplit.trans BitVec.zero_or).symm

end EncodedWord

/-! ### The nine codes DECODE gives (40_codec.md R124, R125) -/

section DecodedFields

variable (w : Word)

/-- Each code, widened again, is the one GETF gives. -/
theorem decodeFields_setWidth :
    (decodeFields w).os.setWidth 16 = extractField w .os ∧ (decodeFields w).mux.setWidth 16 = extractField w .mux ∧
    (decodeFields w).pga.setWidth 16 = extractField w .pga ∧ (decodeFields w).mode.setWidth 16 = extractField w .mode ∧
    (decodeFields w).dr.setWidth 16 = extractField w .dr ∧ (decodeFields w).cmode.setWidth 16 = extractField w .cmode ∧
    (decodeFields w).cpol.setWidth 16 = extractField w .cpol ∧
    (decodeFields w).clat.setWidth 16 = extractField w .clat ∧
    (decodeFields w).cque.setWidth 16 = extractField w .cque :=
  ⟨setWidth_extractField w .os, setWidth_extractField w .mux, setWidth_extractField w .pga,
    setWidth_extractField w .mode, setWidth_extractField w .dr, setWidth_extractField w .cmode,
    setWidth_extractField w .cpol, setWidth_extractField w .clat, setWidth_extractField w .cque⟩

/-- Setting all nine fields to a word's codes gives that word, whatever was there. -/
theorem insertField_all_extractField (x : Word) :
    insertField (insertField (insertField (insertField (insertField (insertField (insertField (insertField
      (insertField x .os (extractField w .os)) .mux (extractField w .mux)) .pga (extractField w .pga))
      .mode (extractField w .mode)) .dr (extractField w .dr)) .cmode (extractField w .cmode))
      .cpol (extractField w .cpol)) .clat (extractField w .clat)) .cque (extractField w .cque) = w := by
  apply word_ext_fields
  intro f
  cases f <;>
    simp only [extractField_insertField_self, extractField_insertField_of_ne, extractField_lt, ne_eq, reduceCtorEq,
      not_false_eq_true]

theorem decodeFields_encodeWord (mux pga : BitVec 3) (mode : BitVec 1) (dr : BitVec 3) :
    decodeFields (encodeWord mux pga mode dr) =
      { os := 1, mux := mux, pga := pga, mode := mode, dr := dr, cmode := 0, cpol := 0, clat := 0, cque := 3 } := by
  have narrow {n : Nat} (v : BitVec n) (h : n ≤ 16) : (v.setWidth 16).setWidth n = v := by
    rw [BitVec.setWidth_setWidth_of_le _ h, BitVec.setWidth_eq]
  simp only [decodeFields, extractField_encodeWord, encodedCode]
  rw [narrow mux (by decide), narrow pga (by decide), narrow mode (by decide), narrow dr (by decide)]
  rfl

/-- Encoding the overrides of a word keeps its overridden fields and takes the rest from TEMPLATE. -/
theorem encodeWord_decodeFields :
    encodeWord (decodeFields w).mux (decodeFields w).pga (decodeFields w).mode (decodeFields w).dr =
      template ||| (w &&& 0x7FE0) := by
  obtain ⟨-, hmux, hpga, hmode, hdr, -⟩ := decodeFields_setWidth w
  simp only [encodeWord, hmux, hpga, hmode, hdr, placeCode_extractField, BitVec.or_assoc]
  simp only [← BitVec.and_or_distrib_left]
  rfl

/-- Settles O18: ENCODE's fields are the overrides and TEMPLATE's; a word is in its image where its other bits are
TEMPLATE's. -/
theorem codecRoundTrip : Obligations.CodecRoundTrip := by
  refine ⟨decodeFields_encodeWord, fun w => ?_⟩
  have hgain : (decodeFields w).pga.toNat = (extractField w .pga).toNat := toNat_setWidth_extractField w .pga
  rw [hgain, and_comm]
  refine and_congr_left fun _ => ⟨fun h => ?_, fun h => ?_⟩
  · rw [← h]
    exact encodeWord_and_foreign ..
  · have hsplit := eq_foreign_or_overridden w
    rw [h] at hsplit
    exact (encodeWord_decodeFields w).trans hsplit.symm

end DecodedFields

/-! ### What the codec's commands answer (40_codec.md R121 to R124) -/

section CodecCommands

variable {s : State}

theorem exec_getf (hl : Live s) (f : Field) (w : Word) :
    exec (.getf f w) s = .next (s.respond (.ok (.code (extractField w f)))) :=
  (needCodec_eq_next s).2 ⟨hl, rfl⟩

theorem exec_decode (hl : Live s) (w : Word) : exec (.decode w) s = .next (s.respond (.ok (.fields (decodeFields w)))) :=
  (needCodec_eq_next s).2 ⟨hl, rfl⟩

theorem exec_setf_of_lt (hl : Live s) {f : Field} {v : BitVec 3} (hv : v.toNat < 2 ^ f.width) (w : Word) :
    exec (.setf f v w) s = .next (s.respond (.ok (.word (insertField w f (v.setWidth 16))))) :=
  (needCodec_eq_next s).2 ⟨hl, (if_pos (decide_eq_true hv)).symm⟩

theorem exec_setf_of_le (hl : Live s) {f : Field} {v : BitVec 3} (hv : 2 ^ f.width ≤ v.toNat) (w : Word) :
    exec (.setf f v w) s = .next (s.respond (.err (.configurationError .fieldCode))) :=
  (needCodec_eq_next s).2 ⟨hl, (if_neg (by simpa [codeFits] using hv)).symm⟩

theorem exec_encode_of_le (hl : Live s) {pga : BitVec 3} (hg : pga.toNat ≤ 5) (mux : BitVec 3) (mode : BitVec 1)
    (dr : BitVec 3) :
    exec (.encode mux pga mode dr) s = .next (s.respond (.ok (.word (encodeWord mux pga mode dr)))) :=
  (needCodec_eq_next s).2 ⟨hl, (if_pos (decide_eq_true hg)).symm⟩

theorem exec_encode_of_ge (hl : Live s) {pga : BitVec 3} (hg : 6 ≤ pga.toNat) (mux : BitVec 3) (mode : BitVec 1)
    (dr : BitVec 3) :
    exec (.encode mux pga mode dr) s = .next (s.respond (.err (.configurationError .gain))) :=
  (needCodec_eq_next s).2 ⟨hl, (if_neg (by simp [gainCodeUsable_eq_false.2 hg])).symm⟩

end CodecCommands

theorem selector_toNat (f : Field) : f.selector.toNat = selectorNumber f := by cases f <;> rfl

/-- Settles O14: GETF answers the field's code, a quotient's remainder. -/
theorem getfExtractsField : Obligations.GetfExtractsField := fun f w _ =>
  ⟨opField_packWord .., argField_packWord .., fselField_packWord .., selector_toNat f, fun hl =>
    ⟨extractField w f, exec_getf hl f w, rfl, extractField_toNat w f, extractField_lt w f⟩⟩

/-- Settles O15: SETF answers the insert, to which the laws of R128 apply, or refuses the code. -/
theorem setfReplacesField : Obligations.SetfReplacesField := by
  intro f v w s
  refine ⟨⟨opField_packWord .., fselField_packWord .., selector_toNat f, valField_packWord .., argField_packWord ..⟩,
    fun hl hv => ?_, fun hl hv => exec_setf_of_le hl hv w⟩
  have fits {g : Field} {u : BitVec 3} (hu : u.toNat < 2 ^ g.width) : (u.setWidth 16).toNat < 2 ^ g.width := by
    rwa [BitVec.toNat_setWidth_of_le (by decide)]
  refine ⟨insertField w f (v.setWidth 16), exec_setf_of_lt hl hv w, rfl, extractField_insertField_self (fits hv),
    fun g hg => extractField_insertField_of_ne (fits hv) hg, fun h => ?_,
    fun g u hg hu => insertField_comm (fits hv) (fits hu) hg.symm, fun u hu => insertField_insertField (fits hv) (fits hu)⟩
  rw [← h]
  exact insertField_extractField w f

/-- Settles O16: ENCODE answers TEMPLATE with the overrides in place, or refuses the gain code. -/
theorem encodeBuildsWord : Obligations.EncodeBuildsWord := by
  intro mux pga mode dr s
  refine ⟨opField_packWord .., fselField_packWord .., valField_packWord .., fun hl hg => ?_,
    fun hl hg => exec_encode_of_ge hl hg mux mode dr⟩
  refine ⟨encodeWord mux pga mode dr, exec_encode_of_le hl hg mux mode dr, encodeWord_toNat mux pga mode dr, ?_,
    encodeWord_eq_insertField mux pga mode dr⟩
  rw [encode, argField_packWord]
  exact encodeWord_eq_template_or_arg mux pga mode dr

/-- Settles O17: DECODE answers the nine codes, which determine the word. -/
theorem decodeSplitsWord : Obligations.DecodeSplitsWord := by
  intro w x s
  refine ⟨opField_packWord .., argField_packWord .., fun hl => ⟨decodeFields w, exec_decode hl w, ?_⟩⟩
  obtain ⟨hos, hmux, hpga, hmode, hdr, hcmode, hcpol, hclat, hcque⟩ := decodeFields_setWidth w
  refine ⟨hos, hmux, hpga, hmode, hdr, hcmode, hcpol, hclat, hcque, ?_⟩
  rw [hos, hmux, hpga, hmode, hdr, hcmode, hcpol, hclat, hcque]
  exact insertField_all_extractField w x

/-- Settles O21: each codec command's answer, which names no state, holds in every live one. -/
theorem codecIsStateless : Obligations.CodecIsStateless := by
  intro i hi
  cases i with
  | encode mux pga mode dr =>
    rcases Nat.lt_or_ge 5 pga.toNat with hg | hg
    · exact ⟨.err (.configurationError .gain), nofun, fun _ hl => exec_encode_of_ge hl hg mux mode dr⟩
    · exact ⟨.ok (.word (encodeWord mux pga mode dr)), nofun, fun _ hl => exec_encode_of_le hl hg mux mode dr⟩
  | decode w => exact ⟨.ok (.fields (decodeFields w)), nofun, fun _ hl => exec_decode hl w⟩
  | getf f w => exact ⟨.ok (.code (extractField w f)), nofun, fun _ hl => exec_getf hl f w⟩
  | setf f v w =>
    rcases Nat.lt_or_ge v.toNat (2 ^ f.width) with hv | hv
    · exact ⟨.ok (.word (insertField w f (v.setWidth 16))), nofun, fun _ hl => exec_setf_of_lt hl hv w⟩
    · exact ⟨.err (.configurationError .fieldCode), nofun, fun _ hl => exec_setf_of_le hl hv w⟩
  | wrcfg | rdcfg | rdconv | rdthr | rdss | reset | init => cases hi

end Sys2Proof.Machine

/-! ## Proofs: acceptance, construction and release (family 41_sequencer.md) -/

namespace Sys2Proof.Machine

/-! ### Acceptance (41_sequencer.md R140 item 1) -/

section Acceptance

variable {s : State} (body : State → State)

theorem needIdle_of_ne_idle (h : s.phase ≠ .idle) : needIdle s body = .fault (.notIdle s.phase) := if_neg h

theorem needOpen_of_ne_idle (hl : Live s) (h : s.phase ≠ .idle) : needOpen s body = .fault (.notIdle s.phase) := by
  obtain ⟨hmade, hopen⟩ := hl
  rw [needOpen, needLive, if_pos hmade, if_pos hopen, needIdle_of_ne_idle body h]

theorem needMade_of_ne_idle (hmade : s.made = true) (h : s.phase ≠ .idle) :
    needMade s body = .fault (.notIdle s.phase) := by
  rw [needMade, if_pos hmade, needIdle_of_ne_idle body h]

theorem needNoInstance_of_not_live (h : ¬Live s) : needNoInstance s body = .next (body s) :=
  (needNoInstance_eq_next s).2 ⟨by simpa [Live] using h, rfl⟩

end Acceptance

/-- Settles O28: each sequencer command but INIT asks for IDLE after the checks that the hypotheses pass. -/
theorem notAcceptedUnlessIdle : Obligations.NotAcceptedUnlessIdle := by
  intro i s hcodec hinit hmade hopen hphase
  cases i with
  | encode | decode | getf | setf => cases hcodec
  | wrcfg | rdcfg | rdconv | rdthr | rdss =>
    have hlive : Live s := ⟨hmade, hopen.resolve_right nofun⟩
    exact needOpen_of_ne_idle _ hlive hphase
  | reset => exact needMade_of_ne_idle _ hmade hphase
  | init => exact absurd rfl hinit

/-! ### RESET (R147) -/

/-- RESET's steps, whether the handle is still open or not. -/
theorem resetSteps_eq (s : State) :
    resetSteps s = { s with
      isOpen := false
      phase := .idle
      lock := .free
      busLog := if s.isOpen then .call s.who s.busIdx s.addr .close :: s.busLog else s.busLog
      delivered := ⟨s.who, .ok .none⟩ :: s.delivered } := by
  have held (t : State) (h : t.lock = .held t.who) : endCommand t = { t with phase := .idle, lock := .free } :=
    endCommand_eq t (.inl h)
  unfold resetSteps
  cases h : s.isOpen
  · simp only [acquire, State.setLock_isOpen, h, Bool.false_eq_true, if_false, complete]
    rw [held _ rfl, ← h]
    rfl
  · simp only [acquire, State.setLock_isOpen, h, if_true, complete]
    rw [held _ rfl]
    rfl

/-- Settles O26: RESET's steps on an open handle and on a released one, from IDLE to IDLE. -/
theorem resetClosesHandle : Obligations.ResetClosesHandle := by
  intro s hmade hphase
  have hexec : exec .reset s = .next (resetSteps s) := (needMade_eq_next s).2 ⟨hmade, hphase, rfl⟩
  refine ⟨fun hopen => ?_, fun hopen => ?_⟩ <;> simp [hexec, resetSteps_eq, hopen, hphase]

/-! ### INIT (R141) -/

/-- The addresses of the map name a device each, and no other byte does (20_memory.md R51). -/
theorem addrOfBits_eq_none : ∀ {b : BitVec 8}, addrOfBits b = none ↔ b.toNat < 0x48 ∨ 0x4B < b.toNat := by decide

theorem addrBits_of_addrOfBits : ∀ {b : BitVec 8} {a : DevAddr}, addrOfBits b = some a → addrBits a = b := by
  intro b a; revert b; cases a <;> decide

theorem gainOfCode_eq_none : ∀ {c : BitVec 3}, gainOfCode c = none ↔ 6 ≤ c.toNat := by decide

theorem gainCode_of_gainOfCode : ∀ {c : BitVec 3} {g : Gain}, gainOfCode c = some g → gainCode g = c := by
  intro c g; revert c; cases g <;> decide

section InitSteps

variable (s : State) (busIdx : Nat) {gain : BitVec 3} {addr : BitVec 8} {rate : Nat}

/-- With an operand out of range INIT only answers a ConfigurationError (60_exceptions.md R212). -/
theorem initSteps_out_of_range
    (h : addr.toNat < 0x48 ∨ 0x4B < addr.toNat ∨ 6 ≤ gain.toNat ∨ 8 ≤ rate) :
    ∃ what, initSteps busIdx gain addr rate s = raiseConfiguration what s := by
  unfold initSteps
  split
  · exact ⟨_, rfl⟩
  next ha =>
  split
  · exact ⟨_, rfl⟩
  next hg =>
  have haddr : ¬(addr.toNat < 0x48 ∨ 0x4B < addr.toNat) := by rw [← addrOfBits_eq_none, ha]; nofun
  have hgain : ¬6 ≤ gain.toNat := by rw [← gainOfCode_eq_none, hg]; nofun
  exact ⟨_, if_neg (by rw [rateCodeOk, decide_eq_true_eq]; omega)⟩

/-- With every operand in range INIT ends what is suspended, constructs and answers `ok`. -/
theorem initSteps_in_range (hgain : gain.toNat ≤ 5) (hlow : 0x48 ≤ addr.toNat) (hhigh : addr.toNat ≤ 0x4B)
    (hrate : rate ≤ 7) :
    ∃ g a, gainCode g = gain ∧ addrBits a = addr ∧
      initSteps busIdx gain addr rate s =
        (construct busIdx g a (BitVec.ofNat 3 rate) (endSuspended s)).respond (.ok .none) := by
  unfold initSteps
  split
  · next ha => have := addrOfBits_eq_none.1 ha; omega
  next a ha =>
  split
  · next hg => have := gainOfCode_eq_none.1 hg; omega
  next g hg =>
  exact ⟨g, a, gainCode_of_gainOfCode hg, addrBits_of_addrOfBits ha, if_pos (decide_eq_true hrate)⟩

end InitSteps

theorem endSuspended_of_none {s : State} (h : s.suspended = none) : endSuspended s = s := by
  rw [endSuspended, h]

theorem endSuspended_of_some {s : State} {p : Suspended} (h : s.suspended = some p) : endSuspended s = resume p s := by
  rw [endSuspended, h]

theorem endSuspended_who (s : State) : (endSuspended s).who = s.who := by
  unfold endSuspended; split <;> rfl

/-- Settles O25: INIT is accepted, and its operand check stops it. -/
theorem initChecksOperands : Obligations.InitChecksOperands := by
  intro s busIdx gain addr rate hlive hrange
  obtain ⟨what, h⟩ := initSteps_out_of_range s busIdx hrange
  exact ⟨what, (needNoInstance_of_not_live _ hlive).trans (congrArg _ h)⟩

/-- Settles O24: INIT constructs on the state that the suspended command's end left, or else on the state it met. -/
theorem initConstructs : Obligations.InitConstructs := by
  intro s busIdx gain addr rate hlive hgain hlow hhigh hrate
  obtain ⟨g, a, hg, ha, h⟩ := initSteps_in_range s busIdx hgain hlow hhigh hrate
  have hwho := endSuspended_who s
  refine ⟨_, (needNoInstance_of_not_live _ hlive).trans (congrArg _ h), rfl, ha, rfl, hg,
    Nat.mod_eq_of_lt (Nat.lt_succ_of_le hrate), rfl, rfl, rfl, rfl, endSuspended_suspended s, hwho, rfl, rfl, rfl, rfl,
    rfl, rfl, fun hs => ?_, fun p hs => ?_⟩
  · rw [endSuspended_of_none hs]
    exact ⟨rfl, rfl, rfl, rfl, rfl⟩
  · rw [endSuspended_of_some hs]
    exact ⟨rfl, rfl⟩

end Sys2Proof.Machine

/-! ## Proofs: the commands with one transaction (family 41_sequencer.md R142 to R144) -/

namespace Sys2Proof.Machine

/-! ### What the device's own step leaves of a read or a write -/

section Device

variable (d : Device) (ans : BusAnswer)

/-- A read of the conversion register is a draw where nothing is known of it, or where a conversion ended that could. -/
theorem Device.acts_value_draw (h : d.convKnown = false ∨ ans.convEnded = true ∧ ¬NoneCanEnd d) (draw : Word) :
    (d.acts ans).value .conversion draw = draw := by
  rcases h with hk | ⟨he, hn⟩
  · simp [Device.acts_value_conversion, hk]
  · exact d.value_of_ended ans draw he (by simpa using mt (converting_eq_false d).1 hn)

/-- It is the known content where no conversion ended, or none could. -/
theorem Device.acts_value_kept (hk : d.convKnown = true) (he : ans.convEnded = false ∨ NoneCanEnd d) (draw : Word) :
    (d.acts ans).value .conversion draw = d.conversion := by
  rw [d.acts_of_none_ended ans he]
  exact if_pos hk

/-- Nothing that was unknown becomes known by the device's own step. -/
theorem Device.acts_convKnown_false (hk : d.convKnown = false) : (d.acts ans).convKnown = false := by
  simp [Device.acts_convKnown, hk]

/-- The status bit of a config read is the draw's (10_state.md R36). -/
theorem withStatusBit_getLsbD (stored draw : Word) : (withStatusBit stored draw).getLsbD 15 = draw.getLsbD 15 := by
  rw [withStatusBit, BitVec.getLsbD_append]
  simp

/-- Under a new word what could end still can, and a single-shot word may begin one conversion more. -/
theorem Device.accept_convPending (a : Agent) (w : Word) (begins : Bool) :
    (d.accept a w begins).convPending = d.unended + (if w.getLsbD 8 && begins then 1 else 0) := by
  simp [Device.accept, isContinuous_eq]

theorem Device.accept_convPending_le (a : Agent) (w : Word) (begins : Bool) :
    (d.accept a w begins).convPending ≤ d.unended + 1 := by
  rw [Device.accept_convPending]; split <;> omega

/-- After a continuous word the device free-runs, so a conversion is always in progress (20_memory.md R65 (b)). -/
theorem Device.accept_continuous (a : Agent) {w : Word} (begins : Bool) (hw : w.getLsbD 8 = false) :
    (d.accept a w begins).freeRuns = true ∧ (d.accept a w begins).converting = true := by
  have hf : (d.accept a w begins).freeRuns = true := freeRuns_of_continuous hw
  exact ⟨hf, Device.converting_of_freeRuns _ hf⟩

/-- A word with no trigger leaves the device as it was, where the old word stayed. -/
theorem Device.triggered_of_none (a : Agent) {w : Word} {begins : Bool} (h : w.getLsbD 8 = false ∨ begins = false) :
    d.triggered a w begins = d := by
  rw [Device.triggered, isContinuous_eq]
  rcases h with h | h
  · rw [h]; rfl
  · rw [h, Bool.and_false]; rfl

/-- A trigger that took effect leaves one conversion more, the agent's own. -/
theorem Device.triggered_of_begun (a : Agent) {w : Word} (h : w.getLsbD 8 = true) :
    d.triggered a w true = { d with convPending := d.convPending + 1, writer := some a } := by
  simp [Device.triggered, isContinuous_eq, h]

end Device

/-! ### A write that failed (20_memory.md R56, 60_exceptions.md R216) -/

section FailedWrite

variable (s : State) (w : Word) {a : BusAnswer} {f : Failure}

/-- The device after a write of the agent in progress that failed. -/
def failedWrite (s : State) (w : Word) (a : BusAnswer) : Device := (s.device.acts a).afterFailedWrite s.who w a

/-- Whether the trigger of a failed write took effect is the environment's to say. -/
theorem starts_of_failed (ha : a.failure = some f) : starts w a = a.started := by simp [starts, ha]

theorem failedWrite_of_reached (ha : a.failure = some f) (hr : a.reached = true) :
    failedWrite s w a = (s.device.acts a).accept s.who w a.started := by
  rw [failedWrite, Device.afterFailedWrite, if_pos hr, starts_of_failed w ha]

theorem failedWrite_of_not_reached (ha : a.failure = some f) (hr : a.reached = false) :
    failedWrite s w a = (s.device.acts a).triggered s.who w a.started := by
  rw [failedWrite, Device.afterFailedWrite, hr, starts_of_failed w ha]
  rfl

/-- The word reached the device all the same. -/
theorem failedWrite_reached (ha : a.failure = some f) (hr : a.reached = true) :
    (failedWrite s w a).config = w ∧ (failedWrite s w a).cfgKnown = true ∧
    (failedWrite s w a).writer = some s.who ∧ (failedWrite s w a).convPending ≤ s.device.unended + 1 ∧
    (a.convEnded = false →
      (failedWrite s w a).convPending = s.device.unended + (if w.getLsbD 8 && a.started then 1 else 0) ∧
      (failedWrite s w a).convKnown = s.device.convKnown) ∧
    (w.getLsbD 8 = false → (failedWrite s w a).freeRuns = true ∧ (failedWrite s w a).converting = true) := by
  rw [failedWrite_of_reached s w ha hr]
  refine ⟨rfl, rfl, rfl, ?_, fun he => ?_, Device.accept_continuous _ _ _⟩
  · exact (Device.accept_convPending_le _ _ _ _).trans (Nat.add_le_add_right (s.device.acts_unended_le a) 1)
  · rw [s.device.acts_of_none a he]
    exact ⟨Device.accept_convPending _ _ _ _, rfl⟩

/-- The old word stayed and no conversion began. -/
theorem failedWrite_kept (ha : a.failure = some f) (hr : a.reached = false)
    (h : w.getLsbD 8 = false ∨ a.started = false) :
    (failedWrite s w a).writer = s.device.writer ∧ ConversionKept s.device (failedWrite s w a) a.convEnded := by
  rw [failedWrite_of_not_reached s w ha hr, Device.triggered_of_none _ _ h]
  exact ⟨s.device.acts_writer a, acts_conversionKept s.device a⟩

/-- The old word stayed, and a conversion began all the same (log 21). -/
theorem failedWrite_begun (ha : a.failure = some f) (hr : a.reached = false) (hw : w.getLsbD 8 = true)
    (hb : a.started = true) : ConversionBegun s (failedWrite s w a) a.convEnded := by
  obtain ⟨-, hle, hkept, hlost⟩ := acts_conversionKept s.device a
  rw [failedWrite_of_not_reached s w ha hr, hb, Device.triggered_of_begun _ _ hw]
  refine ⟨rfl, Nat.succ_ne_zero _, Nat.succ_le_succ hle, fun h => ?_, hlost⟩
  obtain ⟨hpending, hknown⟩ := hkept h
  exact ⟨congrArg (· + 1) hpending, hknown⟩

theorem failedWrite_config_of_not_reached (hr : a.reached = false) :
    (failedWrite s w a).config = s.device.config ∧ (failedWrite s w a).cfgKnown = s.device.cfgKnown := by
  simp [failedWrite, Device.afterFailedWrite_config, hr]

/-- No other register changes, and nothing becomes known of one. -/
theorem failedWrite_frame :
    (failedWrite s w a).conversion = s.device.conversion ∧
    (s.device.convKnown = false → (failedWrite s w a).convKnown = false) ∧
    LowKept s.device (failedWrite s w a) ∧ HighKept s.device (failedWrite s w a) := by
  refine ⟨by simp [failedWrite], fun hk => ?_, by simp [LowKept, failedWrite], by simp [HighKept, failedWrite]⟩
  rw [failedWrite, Device.afterFailedWrite_convKnown]
  exact s.device.acts_convKnown_false a hk

end FailedWrite

/-! ### One transaction from rest to rest -/

section OneTransaction

variable {s : State} {a : BusAnswer} {rest : List BusAnswer} {f : Failure}

theorem exec_wrcfg_ok (h : Ready s) (hs : s.answers = a :: rest) (ha : Succeeds a) (w : Word) :
    exec (.wrcfg w) s = .next { s with
      lastCfg := some w
      device := (s.device.acts a).accept s.who w (starts w a)
      answers := rest
      busLog := busEvent s s.who (.write .config w) :: s.busLog
      delivered := ⟨s.who, .ok .none⟩ :: s.delivered } := by
  have ⟨_, _, hphase, hlock⟩ := h
  rw [exec, execWrcfg, needOpen_ready s h, wrcfgSteps_cons hs ha, hphase, hlock]

theorem exec_wrcfg_failed (h : Ready s) (hs : s.answers = a :: rest) (ha : a.failure = some f) (w : Word) :
    exec (.wrcfg w) s = .next { s with
      device := failedWrite s w a
      answers := rest
      busLog := busEvent s s.who (.write .config w) :: s.busLog
      delivered := ⟨s.who, .err (.busError .config .write)⟩ :: s.delivered } := by
  have ⟨_, _, hphase, hlock⟩ := h
  have hn := nextAnswer_cons s hs
  rw [exec, execWrcfg, needOpen_ready s h, wrcfgSteps_failed s w (hn ▸ ha), dropAnswer_cons s hs, hn, hphase, hlock]
  rfl

/-- The one read of RDCFG and of RDCONV. -/
theorem finishRead_ready (h : Ready s) (hs : s.answers = a :: rest) (ha : Succeeds a) (p : Phase) (i : RegIdx) :
    finishRead p i .word s = { s with
      device := (s.device.acts a).seen i a.word
      answers := rest
      busLog := busEvent s s.who (.read i) :: s.busLog
      delivered := ⟨s.who, .ok (.word ((s.device.acts a).value i a.word))⟩ :: s.delivered } := by
  obtain ⟨-, -, hphase, hlock⟩ := h
  rw [finishRead_cons hs ha, hphase, hlock]

@[inherit_doc finishRead_ready]
theorem finishRead_ready_failed (h : Ready s) (hs : s.answers = a :: rest) (ha : a.failure = some f) (p : Phase)
    (i : RegIdx) :
    finishRead p i .word s = { s with
      device := s.device.acts a
      answers := rest
      busLog := busEvent s s.who (.read i) :: s.busLog
      delivered := ⟨s.who, .err (.busError i .read)⟩ :: s.delivered } := by
  obtain ⟨-, -, hphase, hlock⟩ := h
  rw [finishRead_failed_cons hs ha, hphase, hlock]

theorem exec_rdcfg_eq (h : Ready s) : exec .rdcfg s = .next (finishRead .rdCfg .config .word s) := needOpen_ready s h _

theorem exec_rdconv_eq (h : Ready s) : exec .rdconv s = .next (finishRead .rdConv .conversion .word s) :=
  needOpen_ready s h _

end OneTransaction

/-! ### Obligations about one transaction -/

/-- Settles O29: the device accepts the word after its own step, which changes what is known of a conversion only. -/
theorem wrcfgWritesConfig : Obligations.WrcfgWritesConfig := by
  intro s w a rest h hs ha
  obtain ⟨-, -, hkept, hlost⟩ := acts_conversionKept s.device a
  refine ⟨_, exec_wrcfg_ok h hs ha w, rfl, rfl, rfl, s.device.acts_conversion a, fun he => (hkept he).2, hlost,
    acts_lowKept _ a, acts_highKept _ a, fun hos hmode => ?_, Device.accept_continuous _ _ _⟩
  have hpending : ((s.device.acts a).accept s.who w (starts w a)).convPending = (s.device.acts a).unended + 1 := by
    simp [Device.accept_convPending, starts, ha, startBit_eq, hos, hmode]
  rw [hpending]
  exact ⟨Nat.succ_ne_zero _, fun he => by rw [s.device.acts_of_none a he]⟩

/-- Settles O30: what a failed write leaves, by whether the word reached the device and whether its trigger took effect. -/
theorem wrcfgFailureKeepsShadow : Obligations.WrcfgFailureKeepsShadow := by
  intro s w a rest f h hs ha
  refine ⟨_, exec_wrcfg_failed h hs ha w, failedWrite_reached s w ha, fun hr => ?_, failedWrite_frame s w⟩
  obtain ⟨hconfig, hknown⟩ := failedWrite_config_of_not_reached s w hr
  exact ⟨hconfig, hknown, failedWrite_kept s w ha hr, failedWrite_begun s w ha hr⟩

/-- Settles O31: a config read leaves the device as its own step did, and joins the drawn bit to the known word. -/
theorem rdcfgReturnsConfig : Obligations.RdcfgReturnsConfig := by
  intro s a rest h hs ha
  refine ⟨_, _, (exec_rdcfg_eq h).trans (congrArg _ (finishRead_ready h hs ha ..)), fun hk => ?_, fun hk => ?_,
    acts_configKept _ a, acts_conversionKept _ a, acts_lowKept _ a, acts_highKept _ a⟩
  · have hv : (s.device.acts a).value .config a.word = withStatusBit s.device.config a.word := by
      simp [Device.value, hk]
    rw [hv]
    exact ⟨withStatusBit_getLsbD _ _, withStatusBit_extractLsb' _ _⟩
  · simp [Device.value, hk]

/-- Settles O32: the device's own step decides between the content and the draw, and the read keeps the word it returned. -/
theorem rdconvReturnsConversion : Obligations.RdconvReturnsConversion := by
  intro s a rest h hs ha
  obtain ⟨-, hle, hkept, -⟩ := acts_conversionKept s.device a
  exact ⟨_, _, (exec_rdconv_eq h).trans (congrArg _ (finishRead_ready h hs ha ..)),
    fun hk he => s.device.acts_value_kept a hk he _, fun hk => s.device.acts_value_draw a (.inl hk) _,
    fun he hn => s.device.acts_value_draw a (.inr ⟨he, hn⟩) _, rfl, rfl, acts_configKept _ a, acts_lowKept _ a,
    acts_highKept _ a, hle, fun he => (hkept he).1⟩

/-- Settles O33: the first read makes its word the known content, and the second finds it there. -/
theorem rdconvRepeatsWithoutConversion : Obligations.RdconvRepeatsWithoutConversion := by
  intro s a b rest h hs ha hb hend
  obtain ⟨t, ht, hT⟩ := exec_rdconv_ran h hs ha
  obtain ⟨u, hu, hU⟩ := exec_rdconv_ran hT.ready hT.answers hb
  have hquiet : b.convEnded = false ∨ NoneCanEnd t.device := by
    refine hend.imp_right fun hn => ?_
    rw [hT.device, s.device.acts_of_noneCanEnd a hn]
    exact hn
  have hknown : t.device.convKnown = true := by rw [hT.device]; rfl
  have hcontent : t.device.conversion = (s.device.acts a).value .conversion a.word := by rw [hT.device]; rfl
  refine ⟨t, u, _, ht, hu, hT.delivered, ?_⟩
  rw [hU.delivered, hT.who, t.device.acts_value_kept b hknown hquiet, hcontent]

/-- Settles O38: of a read that failed the device keeps its own step only. -/
theorem readFailureChangesNothing : Obligations.ReadFailureChangesNothing := by
  intro s a rest f h hs ha
  constructor
  · exact ⟨_, (exec_rdcfg_eq h).trans (congrArg _ (finishRead_ready_failed h hs ha ..)), acts_configKept _ a,
      acts_conversionKept _ a, acts_lowKept _ a, acts_highKept _ a⟩
  · exact ⟨_, (exec_rdconv_eq h).trans (congrArg _ (finishRead_ready_failed h hs ha ..)), acts_configKept _ a,
      acts_conversionKept _ a, acts_lowKept _ a, acts_highKept _ a⟩

end Sys2Proof.Machine

/-! ## Proofs: the commands with two transactions (family 41_sequencer.md R145, R146) -/

namespace Sys2Proof.Machine

/-! ### RDTHR with a quiet gap -/

section Rdthr

variable {s : State} {a b : BusAnswer} {rest : List BusAnswer} {f : Failure}

/-- Through a quiet gap RDTHR's second read meets what its first left. -/
theorem exec_rdthr_quiet (h : Ready s) (hg : GapQuiet s) (hs : s.answers = a :: rest) (ha : Succeeds a) :
    ∃ gs, exec .rdthr s =
      .next (finishRest (.afterLow (lowRead a s)) { rdthrRead a rest s with gaps := gs }) := by
  obtain ⟨gs, hgap⟩ := gap_quiet s hg
  exact ⟨gs, by rw [exec_rdthr_eq h hs ha, hgap (rdthrRead a rest s) rfl rfl]⟩

theorem exec_rdthr_first_failed (h : Ready s) (hs : s.answers = a :: rest) (ha : a.failure = some f) :
    exec .rdthr s = .next { s with
      device := s.device.acts a
      answers := rest
      busLog := busEvent s s.who (.read .lowThreshold) :: s.busLog
      delivered := ⟨s.who, .err (.busError .lowThreshold .read)⟩ :: s.delivered } := by
  have ⟨_, _, hphase, hlock⟩ := h
  have hn := nextAnswer_cons s hs
  obtain ⟨hrest, hfirst⟩ := rdthrFirst_failed s (hn ▸ ha)
  simp only [exec, execRdthr, needOpen_ready s h, hrest, hfirst, throughGap]
  rw [dropAnswer_cons s hs, hn, hphase, hlock]

/-- The device after RDTHR's first read. -/
def lowSeen (d : Device) (a : BusAnswer) : Device := (d.acts a).seen .lowThreshold a.word

theorem lowSeen_frame (d : Device) (a : BusAnswer) :
    ConfigKept d (lowSeen d a) ∧ HighKept d (lowSeen d a) ∧ ConversionKept d (lowSeen d a) a.convEnded :=
  ⟨acts_configKept d a, acts_highKept d a, acts_conversionKept d a⟩

/-- The read leaves the known word, or the draw, as the known content. -/
theorem lowSeen_lowThr (d : Device) (a : BusAnswer) :
    (lowSeen d a).lowThr = (if d.lowKnown then d.lowThr else a.word) ∧ (lowSeen d a).lowKnown = true := by
  simp [lowSeen, Device.seen, Device.value]

/-- After the device's own step at the second read: the config register and the conversion register. -/
theorem lowSeen_acts_frame (d : Device) (a b : BusAnswer) :
    ConfigKept d ((lowSeen d a).acts b) ∧ ConversionKept d ((lowSeen d a).acts b) (a.convEnded || b.convEnded) := by
  obtain ⟨hconfig, -, hconv⟩ := lowSeen_frame d a
  exact ⟨by simpa [ConfigKept] using hconfig, conversionKept_trans hconv (acts_conversionKept _ b) hconfig⟩

end Rdthr

/-- Settles O34: each read returns the known word or its draw and leaves it known; the device's two own steps make up what
else it did. -/
theorem rdthrReturnsPair : Obligations.RdthrReturnsPair := by
  intro s a b rest h hg hs ha hb
  have ⟨_, _, hphase, hlock⟩ := h
  obtain ⟨gs, hexec⟩ := exec_rdthr_quiet h hg hs ha
  obtain ⟨hlow, hlowKnown⟩ := lowSeen_lowThr s.device a
  obtain ⟨hconfig, hconv⟩ := lowSeen_acts_frame s.device a b
  have hhigh : ((lowSeen s.device a).acts b).value .highThreshold b.word =
      if s.device.highKnown then s.device.highThr else b.word := by
    simp [Device.value, lowSeen, Device.seen]
  refine ⟨((lowSeen s.device a).acts b).seen .highThreshold b.word, lowRead a s, _, gs, ?_, rfl, hhigh, ?_, ?_, rfl, rfl,
    hconfig, hconv⟩
  · rw [hexec, finishRest_afterLow_cons rfl hb, hphase, hlock]
    rfl
  · exact (Device.acts_lowThr _ b).trans hlow
  · exact (Device.acts_lowKnown _ b).trans hlowKnown

/-- Settles O35: a failed first read is all that happens; a failed second read leaves the device as its own step did. -/
theorem rdthrFailureEndsCommand : Obligations.RdthrFailureEndsCommand := by
  intro s a b rest f h hg hs
  have ⟨_, _, hphase, hlock⟩ := h
  refine ⟨fun ha => ?_, fun ha hb => ?_⟩
  · exact ⟨_, exec_rdthr_first_failed h hs ha, acts_lowKept _ a, acts_highKept _ a, acts_configKept _ a,
      acts_conversionKept _ a⟩
  · obtain ⟨gs, hexec⟩ := exec_rdthr_quiet h hg hs ha
    obtain ⟨hlow, hlowKnown⟩ := lowSeen_lowThr s.device a
    obtain ⟨hconfig, hconv⟩ := lowSeen_acts_frame s.device a b
    refine ⟨(lowSeen s.device a).acts b, gs, ?_, ?_, ?_, ?_, hconfig, hconv⟩
    · rw [hexec, finishRest, finishRead_failed_cons rfl hb, hphase, hlock]
      rfl
    · exact (Device.acts_lowThr _ b).trans hlow
    · exact (Device.acts_lowKnown _ b).trans hlowKnown
    · simp [HighKept, lowSeen, Device.seen]

/-! ### RDSS with a quiet gap -/

section Rdss

variable {s : State} {a b : BusAnswer} {rest : List BusAnswer} {f : Failure} (m : BitVec 3)

/-- The device after RDSS's settle wait: its word written, the conversion ended, the result not yet seen. -/
def singleShotDone (m : BitVec 3) (a : BusAnswer) (s : State) : Device :=
  { s.device.acts a with
    config := singleShotWord m s, cfgKnown := true, writer := some s.who, convPending := 0, convKnown := false }

/-- That device does nothing more on its own (41_sequencer.md R146). -/
theorem singleShotDone_acts (a b : BusAnswer) (s : State) :
    (singleShotDone m a s).acts b = singleShotDone m a s := by
  obtain ⟨-, hmode⟩ := singleShotWord_bits s m
  exact Device.acts_of_noneCanEnd _ b ⟨rfl, hmode, rfl⟩

/-- The settle wait ends the conversion that the write began. -/
theorem endWait_rdssWritten (ha : Succeeds a) (gs : List Nat) :
    endWait { rdssWritten m a rest s with gaps := gs } =
      { rdssWritten m a rest s with gaps := gs, device := singleShotDone m a s } :=
  congrArg (fun d : Device => ({ rdssWritten m a rest s with gaps := gs, device := d } : State))
    (settled_singleShot s (s.device.acts a) m a ha)

/-- Through a quiet gap and the settle wait, RDSS's read meets that device. -/
theorem exec_rdss_quiet (h : Ready s) (hg : GapQuiet s) (hs : s.answers = a :: rest) (ha : Succeeds a) :
    ∃ gs, exec (.rdss m) s = .next (finishRead .rdConv .conversion .word
      { rdssWritten m a rest s with gaps := gs, device := singleShotDone m a s }) := by
  obtain ⟨gs, hgap⟩ := gap_quiet s hg
  exact ⟨gs, by rw [exec_rdss_eq h hs ha m, hgap (rdssWritten m a rest s) rfl rfl, finishRest, endWait_rdssWritten m ha]⟩

theorem exec_rdss_write_failed (h : Ready s) (hs : s.answers = a :: rest) (ha : a.failure = some f) :
    exec (.rdss m) s = .next { s with
      device := failedWrite s (singleShotWord m s) a
      answers := rest
      busLog := busEvent s s.who (.write .config (singleShotWord m s)) :: s.busLog
      delivered := ⟨s.who, .err (.busError .config .write)⟩ :: s.delivered } := by
  have ⟨_, _, hphase, hlock⟩ := h
  have hn := nextAnswer_cons s hs
  obtain ⟨hrest, hfirst⟩ := rdssFirst_failed s m (hn ▸ ha)
  simp only [exec, execRdss, needOpen_ready s h, hrest, hfirst, throughGap]
  rw [dropAnswer_cons s hs, hn, hphase, hlock]
  rfl

end Rdss

/-- Settles O36: the settle wait leaves a result that no read has seen, and none that can replace it, so the read is a
draw. -/
theorem rdssWritesSettlesReads : Obligations.RdssWritesSettlesReads := by
  intro s m a b rest h hg hs ha hb
  have ⟨_, _, hphase, hlock⟩ := h
  obtain ⟨gs, hexec⟩ := exec_rdss_quiet m h hg hs ha
  refine ⟨(singleShotDone m a s).seen .conversion b.word, singleShotWord m s, gs, ?_, singleShotWord_toNat m s, rfl, rfl,
    rfl, rfl, rfl, rfl, acts_lowKept _ a, acts_highKept _ a⟩
  rw [hexec, finishRead_cons rfl hb, singleShotDone_acts, hphase, hlock]
  rfl

/-- Settles O37: a failed write is all that happens; before a failed read the settle wait has ended the conversion. -/
theorem rdssFailureEndsCommand : Obligations.RdssFailureEndsCommand := by
  intro s m a b rest f h hg hs
  have ⟨_, _, hphase, hlock⟩ := h
  obtain ⟨-, hmode⟩ := singleShotWord_bits s m
  refine ⟨singleShotWord m s, singleShotWord_toNat m s, fun ha => ?_, fun ha hb => ?_⟩
  · refine ⟨_, exec_rdss_write_failed m h hs ha, fun hr => ?_, fun hr => ?_, failedWrite_frame s _⟩
    · obtain ⟨hconfig, hknown, hwriter, hle, hrunning, -⟩ := failedWrite_reached s (singleShotWord m s) ha hr
      rw [hmode, Bool.true_and] at hrunning
      exact ⟨hconfig, hknown, hwriter, hle, hrunning⟩
    · obtain ⟨hconfig, hknown⟩ := failedWrite_config_of_not_reached s (singleShotWord m s) hr
      exact ⟨hconfig, hknown, fun hb => failedWrite_kept s _ ha hr (.inr hb), failedWrite_begun s _ ha hr hmode⟩
  · obtain ⟨gs, hexec⟩ := exec_rdss_quiet m h hg hs ha
    refine ⟨singleShotDone m a s, gs, ?_, rfl, rfl, rfl, s.device.acts_conversion a, rfl, rfl, acts_lowKept _ a,
      acts_highKept _ a⟩
    rw [hexec, finishRead_failed_cons rfl hb, singleShotDone_acts, hphase, hlock]
    rfl

end Sys2Proof.Machine

/-! ## Proofs: how a command ends, and whom its response goes to (family 41_sequencer.md R140) -/

namespace Sys2Proof.Machine

/-! ### One response of a command's own -/

/-- A response is no ConfigurationError: the command's operands were in range (41_sequencer.md R140 item 2). -/
def NotConfiguration (r : Response) : Prop := ∀ what, r ≠ .err (.configurationError what)

/-- What was delivered from `s` to `t` is one response, to the agent in progress, and no ConfigurationError. -/
def Responds (s t : State) : Prop := ∃ r, t.delivered = ⟨s.who, r⟩ :: s.delivered ∧ NotConfiguration r

/-- A first access delivers nothing where something of the command remains, and else the command's response. -/
def FirstResponds (s t : State) (r : Option Rest) : Prop :=
  (r = none → Responds s t) ∧ (r ≠ none → t.delivered = s.delivered)

section Steps

variable (s : State)

theorem finishRead_responds (p : Phase) (i : RegIdx) (result : Word → Payload) :
    Responds s (finishRead p i result s) := by
  cases h : (nextAnswer s).failure
  · rw [finishRead_ok s _ _ _ h]; exact ⟨_, rfl, nofun⟩
  · rw [finishRead_failed s _ _ _ h]; exact ⟨_, rfl, nofun⟩

theorem finishRest_responds (r : Rest) : Responds s (finishRest r s) := by
  cases r with
  | afterSettle => exact finishRead_responds (endWait s) ..
  | afterLow lo => exact finishRead_responds s ..

theorem wrcfgSteps_responds (w : Word) : Responds s (wrcfgSteps w s) := by
  cases h : (nextAnswer s).failure
  · rw [wrcfgSteps_ok s _ h]; exact ⟨_, rfl, nofun⟩
  · rw [wrcfgSteps_failed s _ h]; exact ⟨_, rfl, nofun⟩

theorem resetSteps_responds : Responds s (resetSteps s) := by
  rw [resetSteps_eq]; exact ⟨_, rfl, nofun⟩

theorem rdthrFirst_responds : FirstResponds s (rdthrFirst s) (rdthrRest s) := by
  cases h : (nextAnswer s).failure
  · obtain ⟨hrest, hfirst⟩ := rdthrFirst_ok s h
    rw [hrest, hfirst]; exact ⟨nofun, fun _ => rfl⟩
  · obtain ⟨hrest, hfirst⟩ := rdthrFirst_failed s h
    rw [hrest, hfirst]; exact ⟨fun _ => ⟨_, rfl, nofun⟩, fun h => absurd rfl h⟩

theorem rdssFirst_responds (m : BitVec 3) : FirstResponds s (rdssFirst m s) (rdssRest s) := by
  cases h : (nextAnswer s).failure
  · obtain ⟨hrest, hfirst⟩ := rdssFirst_ok s m h
    rw [hrest, hfirst]; exact ⟨nofun, fun _ => rfl⟩
  · obtain ⟨hrest, hfirst⟩ := rdssFirst_failed s m h
    rw [hrest, hfirst]; exact ⟨fun _ => ⟨_, rfl, nofun⟩, fun h => absurd rfl h⟩

end Steps

/-! ### What is delivered in a gap goes to the other agent (20_memory.md R60 item 3) -/

/-- Every response delivered from `s` to `t` went to agent `a`. -/
def DeliveredTo (a : Agent) (s t : State) : Prop := ∃ new, t.delivered = new ++ s.delivered ∧ ∀ d ∈ new, d.dest = a

theorem DeliveredTo.of_eq {a : Agent} {s t : State} (h : t.delivered = s.delivered) : DeliveredTo a s t :=
  ⟨[], h, nofun⟩

theorem DeliveredTo.of_cons {a : Agent} {s t : State} {r : Response} (h : t.delivered = ⟨a, r⟩ :: s.delivered) :
    DeliveredTo a s t := ⟨[⟨a, r⟩], h, by simp⟩

theorem Responds.deliveredTo {s t : State} (h : Responds s t) : DeliveredTo s.who s t := by
  obtain ⟨r, h, -⟩ := h
  exact .of_cons h

theorem DeliveredTo.trans {a : Agent} {s t u : State} (h : DeliveredTo a s t) (k : DeliveredTo a t u) :
    DeliveredTo a s u := by
  obtain ⟨new, hl, hn⟩ := h
  obtain ⟨later, kl, kn⟩ := k
  refine ⟨later ++ new, by rw [kl, hl, List.append_assoc], fun d hd => ?_⟩
  exact (List.mem_append.1 hd).elim (kn d) (hn d)

theorem FirstResponds.deliveredTo {s t : State} {r : Option Rest} (h : FirstResponds s t r) :
    DeliveredTo s.who s t := by
  obtain ⟨hended, hremains⟩ := h
  by_cases hr : r = none
  · exact (hended hr).deliveredTo
  · exact .of_eq (hremains hr)

/-- Whatever a command delivers up to its first gap goes to its agent. -/
theorem beginCommand_deliveredTo {i : Instr} {s t : State} (h : beginCommand i s = some t) :
    DeliveredTo s.who s t := by
  have codec {u : State} (hu : ∃ r, u = s.respond r) : DeliveredTo s.who s u := by
    obtain ⟨r, rfl⟩ := hu
    exact .of_cons rfl
  have opened {u : State} (hu : (if s.isOpen then some u else none) = some t) : u = t := by
    split at hu <;> cases hu
    rfl
  obtain ⟨hEncode, hDecode, hGetf, hSetf⟩ := codecSteps_respond s
  cases i with
  | encode mux pga mode dr => exact opened h ▸ codec (hEncode mux pga mode dr)
  | decode w => exact opened h ▸ codec (hDecode w)
  | getf f w => exact opened h ▸ codec (hGetf f w)
  | setf f v w => exact opened h ▸ codec (hSetf f v w)
  | wrcfg w => exact opened h ▸ (wrcfgSteps_responds s w).deliveredTo
  | rdcfg => exact opened h ▸ (finishRead_responds s ..).deliveredTo
  | rdconv => exact opened h ▸ (finishRead_responds s ..).deliveredTo
  | rdthr => exact opened h ▸ (rdthrFirst_responds s).deliveredTo
  | rdss m => exact opened h ▸ (rdssFirst_responds s m).deliveredTo
  | reset => cases h; exact (resetSteps_responds s).deliveredTo
  | init => cases h

theorem beginWord_deliveredTo {d : Decoded} {s t : State} (h : beginWord d s = some t) : DeliveredTo s.who s t := by
  rcases beginWord_cases s h with ⟨i, -, hb⟩ | ⟨what, rfl⟩
  · exact beginCommand_deliveredTo hb
  · exact .of_cons rfl

theorem resume_deliveredTo (p : Suspended) (s : State) : DeliveredTo p.agent s (resume p s) :=
  (finishRest_responds { s with who := p.agent, suspended := none } p.rest).deliveredTo

/-- `t` is `s` after moves of the other agent: the same agent is in progress, and the other got what was delivered. -/
def OtherServed (s t : State) : Prop := t.who = s.who ∧ DeliveredTo (otherOf s.who) s t

theorem OtherServed.trans {s t u : State} (h : OtherServed s t) (k : OtherServed t u) : OtherServed s u := by
  obtain ⟨hwho, hto⟩ := h
  obtain ⟨kwho, kto⟩ := k
  rw [hwho] at kto
  exact ⟨kwho.trans hwho, hto.trans kto⟩

theorem otherMove_served (s : State) : OtherServed s (otherMove s) := by
  rcases otherMove_cases s with h | ⟨p, -, hp, h⟩ | ⟨w, rest, t, -, -, hb, h⟩
  · rw [h]; exact ⟨rfl, .of_eq rfl⟩
  · rw [h]; exact ⟨rfl, hp ▸ resume_deliveredTo p s⟩
  · rw [h]; exact ⟨rfl, beginWord_deliveredTo hb⟩

theorem gap_served (s : State) : OtherServed s (gap s) :=
  gap_induct (P := OtherServed s) s (fun _ h => h.trans ⟨rfl, .of_eq rfl⟩) (fun t h => h.trans (otherMove_served t))
    ⟨rfl, .of_eq rfl⟩

/-! ### The end of a sequencer command -/

/-- `t` is `s` after a command of the agent in progress: at rest, the newest response the command's own, and whatever came
before it within the command, under `perCommand` nothing, the other agent's. -/
structure CommandEnded (s t : State) : Prop where
  phase : t.phase = .idle
  lock : t.lock = .free
  who : t.who = s.who
  delivered : ∃ r within, t.delivered = ⟨s.who, r⟩ :: (within ++ s.delivered) ∧ NotConfiguration r ∧
    (∀ d ∈ within, d.dest = otherOf s.who) ∧ (s.scope = .perCommand → within = [])

/-- A command that ended with no gap in it. -/
theorem Ended.commandEnded {s t : State} (h : Ended s t) (hr : Responds s t) : CommandEnded s t := by
  obtain ⟨r, hd, hn⟩ := hr
  exact ⟨h.phase, h.lock, h.who, r, [], hd, hn, nofun, fun _ => rfl⟩

/-- In the gap of a command the other agent is served, under `perCommand` not at all. -/
theorem gap_within (s : State) :
    ∃ within, (gap s).delivered = within ++ s.delivered ∧ (∀ d ∈ within, d.dest = otherOf s.who) ∧
      (s.scope = .perCommand → within = []) := by
  cases hs : s.scope with
  | perAccess =>
    obtain ⟨-, within, hd, hto⟩ := gap_served s
    exact ⟨within, hd, hto, nofun⟩
  | perCommand => exact ⟨[], by rw [gap_perCommand s hs]; rfl, nofun, fun _ => rfl⟩

/-- A command with two accesses ends with its first, or after the gap with its rest. -/
theorem FirstDone.commandEnded {s u : State} {r : Option Rest} (h : FirstDone s u r) (hr : FirstResponds s u r) :
    CommandEnded s (throughGap r u) := by
  obtain ⟨hended, hremains⟩ := hr
  cases r with
  | none =>
    obtain ⟨hlock, hphase⟩ := h.ended rfl
    obtain ⟨r, hd, hn⟩ := hended rfl
    exact ⟨hphase, hlock, h.who, r, [], hd, hn, nofun, fun _ => rfl⟩
  | some rest =>
    have hend := finishRest_ended (gap u) rest
    obtain ⟨hwho, -⟩ := gap_served u
    obtain ⟨within, hgap, hto, hnone⟩ := gap_within u
    obtain ⟨r, hd, hn⟩ := finishRest_responds (gap u) rest
    rw [hwho, h.who] at hd
    rw [h.who] at hto
    rw [h.scope] at hnone
    rw [hgap, hremains nofun] at hd
    exact ⟨hend.phase, hend.lock, hend.who.trans (hwho.trans h.who), r, within, hd, hn, hto, hnone⟩

/-- Every sequencer command but INIT that gives a next state has ended there. -/
theorem exec_commandEnded {i : Instr} {s t : State} (hcodec : isCodec i.op = false) (hinit : i.op ≠ .init)
    (h : exec i s = .next t) : CommandEnded s t := by
  cases i with
  | encode | decode | getf | setf => cases hcodec
  | wrcfg w =>
    obtain ⟨-, -, rfl⟩ := (needOpen_eq_next s).1 h
    exact (wrcfgSteps_ended s w).commandEnded (wrcfgSteps_responds s w)
  | rdcfg =>
    obtain ⟨-, -, rfl⟩ := (needOpen_eq_next s).1 h
    exact (finishRead_ended s ..).commandEnded (finishRead_responds s ..)
  | rdconv =>
    obtain ⟨-, -, rfl⟩ := (needOpen_eq_next s).1 h
    exact (finishRead_ended s ..).commandEnded (finishRead_responds s ..)
  | rdthr =>
    obtain ⟨-, -, ht⟩ := (needOpen_eq_next s).1 h
    exact ht ▸ (rdthrFirst_done s).commandEnded (rdthrFirst_responds s)
  | rdss m =>
    obtain ⟨-, -, ht⟩ := (needOpen_eq_next s).1 h
    exact ht ▸ (rdssFirst_done s m).commandEnded (rdssFirst_responds s m)
  | reset =>
    obtain ⟨-, -, rfl⟩ := (needMade_eq_next s).1 h
    exact (resetSteps_ended s).commandEnded (resetSteps_responds s)
  | init => exact absurd rfl hinit

/-- A codec command that gives a next state responds there and does nothing else. -/
theorem exec_codec_responds {i : Instr} {s t : State} (hcodec : isCodec i.op = true) (h : exec i s = .next t) :
    ∃ r, t = s.respond r := by
  obtain ⟨hEncode, hDecode, hGetf, hSetf⟩ := codecSteps_respond s
  cases i with
  | encode mux pga mode dr => obtain ⟨-, rfl⟩ := (needCodec_eq_next s).1 h; exact hEncode mux pga mode dr
  | decode w => obtain ⟨-, rfl⟩ := (needCodec_eq_next s).1 h; exact hDecode w
  | getf f w => obtain ⟨-, rfl⟩ := (needCodec_eq_next s).1 h; exact hGetf f w
  | setf f v w => obtain ⟨-, rfl⟩ := (needCodec_eq_next s).1 h; exact hSetf f v w
  | wrcfg | rdcfg | rdconv | rdthr | rdss | reset | init => cases hcodec

/-- The operations that need the bus are the sequencer's, INIT apart. -/
theorem usesBus_sequencer : ∀ {op : Op}, usesBus op = true → isCodec op = false ∧ op ≠ .init := by
  intro op; cases op <;> decide

/-- Where it is ready, every command that needs the bus gives a next state. -/
theorem exec_ready {i : Instr} {s : State} (hbus : usesBus i.op = true) (h : Ready s) : ∃ t, exec i s = .next t := by
  cases i with
  | wrcfg | rdcfg | rdconv | rdthr | rdss => exact ⟨_, needOpen_ready s h _⟩
  | encode | decode | getf | setf | reset | init => cases hbus

/-! ### Obligations about the end of a command -/

/-- Settles O9: a codec command answers at once, and a sequencer command when it has ended. -/
theorem responseToIssuer : Obligations.ResponseToIssuer := by
  intro i s t hinit h
  cases hcodec : isCodec i.op with
  | true =>
    obtain ⟨r, rfl⟩ := exec_codec_responds hcodec h
    exact ⟨r, [], rfl, nofun, fun _ => rfl⟩
  | false =>
    obtain ⟨r, within, hd, -, hto, hnone⟩ := (exec_commandEnded hcodec hinit h).delivered
    exact ⟨r, within, hd, hto, hnone⟩

/-- Settles O39: a bus command is accepted in every ready state, and where it gives a next state it has ended. -/
theorem busCommandsAlwaysEnd : Obligations.BusCommandsAlwaysEnd := by
  intro i s hbus h
  obtain ⟨t, ht⟩ := exec_ready hbus h
  obtain ⟨hcodec, hinit⟩ := usesBus_sequencer hbus
  obtain ⟨hphase, hlock, hwho, r, within, hd, hn, -⟩ := exec_commandEnded hcodec hinit ht
  exact ⟨t, r, ht, hphase, hlock, hwho, by rw [hd]; rfl, hn⟩

end Sys2Proof.Machine

/-! ## Proofs: the callers (family 42_surrounding_software.md) -/

namespace Sys2Proof.Machine

/-! ### The hysteresis rule (42_surrounding_software.md R184, R185) -/

/-- A sample publishes when it is below the lower bound or above the upper one (R184). -/
theorem publishes_iff (th : Rat) (v r : Int) :
    publishes th v r = true ↔ (r : Rat) < v * (1 - th) ∨ v * (1 + th) < r := by
  simp only [publishes, Bool.or_eq_true, decide_eq_true_eq]

/-- Where both bounds are one value, exactly the samples that differ from it publish. -/
theorem publishes_iff_ne {th : Rat} {v b r : Int} (hlower : (v : Rat) * (1 - th) = b)
    (hupper : (v : Rat) * (1 + th) = b) :
    publishes th v r = true ↔ r ≠ b := by
  rw [publishes_iff, hlower, hupper, Int.cast_lt, Int.cast_lt, ← ne_iff_lt_or_gt]

/-- The bounds of a negative accepted value cross at a positive threshold (R185). -/
theorem upperBound_lt_lowerBound {th v : Rat} (hth : 0 < th) (hv : v < 0) : v * (1 + th) < v * (1 - th) :=
  mul_lt_mul_of_neg_left (by linarith) hv

/-- Where the bounds cross, every sample publishes: one that is not below the lower bound is above the upper. -/
theorem publishes_of_crossed {th : Rat} {v : Int} (hcross : (v : Rat) * (1 + th) < v * (1 - th)) (r : Int) :
    publishes th v r = true :=
  (publishes_iff th v r).2 ((lt_or_ge _ _).imp_right hcross.trans_le)

/-- Settles O56: at accepted value 0 and at threshold 0 the bounds meet; at a negative value and a positive threshold they
cross, where every sample publishes. -/
theorem hysteresisAsWritten : Obligations.HysteresisAsWritten := by
  refine ⟨fun th r => ?zero, fun v r => ?thresholdZero, fun th v r hth hv => ?negative⟩
  case zero => exact publishes_iff_ne (by simp) (by simp)
  case thresholdZero => exact publishes_iff_ne (by simp) (by simp)
  case negative => exact publishes_of_crossed (upperBound_lt_lowerBound hth (Int.cast_lt_zero.2 hv)) r

end Sys2Proof.Machine

/-! ## Proofs: what the block refuses (family 60_exceptions.md) -/

namespace Sys2Proof.Machine

/-! ### The acceptance checks that refuse (60_exceptions.md R222) -/

section Refusals

variable {s : State} (body : State → State)

theorem needLive_of_not_made (k : Host.Outcome State Fault Refusal) (h : s.made = false) :
    needLive s k = .refused .noInstance := if_neg (by simp [h])

theorem needLive_of_released (k : Host.Outcome State Fault Refusal) (hmade : s.made = true) (h : s.isOpen = false) :
    needLive s k = .refused .handleReleased := by
  rw [needLive, if_pos hmade, if_neg (by simp [h])]

theorem needMade_of_not_made (h : s.made = false) : needMade s body = .refused .noInstance := if_neg (by simp [h])

theorem needNoInstance_of_live (h : Live s) : needNoInstance s body = .refused .instanceExists :=
  if_pos (by simpa [Live] using h)

end Refusals

/-- Settles O27: every command but RESET and INIT asks for a live instance, RESET for one that was made, and INIT for
no live one. -/
theorem refusedOutsideLifecycle : Obligations.RefusedOutsideLifecycle := by
  intro i s
  cases i with
  | encode | decode | getf | setf | wrcfg | rdcfg | rdconv | rdthr | rdss =>
    exact ⟨fun _ hmade => needLive_of_not_made _ hmade, fun _ _ hmade hopen => needLive_of_released _ hmade hopen, nofun⟩
  | reset => exact ⟨fun _ hmade => needMade_of_not_made _ hmade, fun _ h => absurd rfl h, nofun⟩
  | init =>
    exact ⟨fun h => absurd rfl h, fun h => absurd rfl h, fun _ hmade hopen => needNoInstance_of_live _ ⟨hmade, hopen⟩⟩

end Sys2Proof.Machine

/-! ## Proofs: an idle port (family 70_reset_and_hazards.md) -/

namespace Sys2Proof.Machine

theorem takeNext_of_no_request {s : State} (hp : s.port = []) : takeNext s = .next s := by
  unfold takeNext; rw [hp]

/-- Settles O8: with no command suspended the step looks only at the port, where there is no request to take. -/
theorem idlePortWaits : Obligations.IdlePortWaits := by
  intro s hp hs
  rw [step_of_not_suspended hs, takeNext_of_no_request hp]

end Sys2Proof.Machine
